-- ==== Sys2Proof/Word.lean ====
section
/-! DEFINITION. The word types: a byte, and the 32-bit word of every register and of the bus data path
(spec/00_scope.md R5 `XLEN_BUS`, R6, R7). -/

namespace Sys2Proof

/-- A byte is 8 bits (R7). -/
abbrev Byte := BitVec 8

/-- Every register is a 32-bit word, and so is the data of every transaction (R6, R60). -/
abbrev Word := BitVec 32

/-- A bus transaction header: write enable, word index, two zero bits (R97). -/
abbrev Header := BitVec 9

end Sys2Proof
end

