-- ==== Sys2Proof/Syntax.lean ====
section
/-! DEFINITION. The instructions: one constructor per row of spec/opcode_table.json, and the two encoded forms that
stand for them (spec/30_encoding.md R90). -/

namespace Sys2Proof

/-- The seven opcodes of the command word (spec/30_encoding.md R92); also what the latch `OPL` holds
(spec/10_state.md R24). -/
inductive Opc where
  | nop | keyclr | hmac | trunc | render | otp | zeroize
  deriving DecidableEq, Repr

/-- One constructor per row of the opcode table. A command row (R92) stands for what the sequencer does at Complete;
a bus row (R97) for the host's transaction, a write with its 32 data bits. -/
inductive Instr where
  -- format CMD: no command has an explicit operand (R93)
  | nop
  | keyclr
  | hmac
  | trunc
  | render
  | otp
  | zeroize
  -- format BUS, reads
  | rdId
  | rdCfg
  | rdCmd
  | rdStatus
  | rdCtrHi
  | rdCtrLo
  | rdKeyPush
  | rdKeyLen
  | rdValue
  | rdRstat
  | rdPwdBcd0
  | rdPwdBcd1
  /-- `j` is the word of the ASCII view, header bits 3:2. -/
  | rdPwdAsc (j : BitVec 2)
  /-- `k` is the word of the digest buffer, header bits 5:2. -/
  | rdDigest (k : BitVec 4)
  /-- `widx` is the word index of a reserved slot, 32..63 (R67). -/
  | rdRsvd (widx : BitVec 6)
  -- format BUS, writes
  | wrId (data : Word)
  | wrCfg (data : Word)
  | wrCmd (data : Word)
  | wrStatus (data : Word)
  | wrCtrHi (data : Word)
  | wrCtrLo (data : Word)
  | wrKeyPush (data : Word)
  | wrKeyLen (data : Word)
  | wrValue (data : Word)
  | wrRstat (data : Word)
  | wrPwdBcd0 (data : Word)
  | wrPwdBcd1 (data : Word)
  | wrPwdAsc (j : BitVec 2) (data : Word)
  | wrDigest (k : BitVec 4) (data : Word)
  | wrRsvd (widx : BitVec 6) (data : Word)
  deriving DecidableEq, Repr

/-- The two things the block decodes (R90). They are decoded in different spaces (R101). -/
inductive Encoding where
  /-- A command word (R91). -/
  | cmd (w : Word)
  /-- A transaction header with the data a write carries (R97); a read carries none, so its data is ignored. -/
  | bus (hdr : Header) (data : Word)
  deriving DecidableEq, Repr

end Sys2Proof
end

