-- ==== Sys2Proof/WellFormed.lean ====
section
/-! DEFINITION. Which instructions are well formed. The operands of a row are fields of its header and fill their
fields, but for the reserved slots, whose word index must be one of 32..63 (spec/20_memory.md R66, R67). -/

namespace Sys2Proof

/-- The word indexes of the reserved offsets 0x80..0xFC (R67). -/
def reservedSlot (widx : BitVec 6) : Bool := decide (32 ≤ widx.toNat)

/-- A well-formed instruction: a reserved-slot row names a reserved slot. -/
def Instr.wellFormed : Instr → Bool
  | .rdRsvd widx => reservedSlot widx
  | .wrRsvd widx _ => reservedSlot widx
  | .nop | .keyclr | .hmac | .trunc | .render | .otp | .zeroize => true
  | .rdId | .rdCfg | .rdCmd | .rdStatus | .rdCtrHi | .rdCtrLo | .rdKeyPush | .rdKeyLen => true
  | .rdValue | .rdRstat | .rdPwdBcd0 | .rdPwdBcd1 | .rdPwdAsc _ | .rdDigest _ => true
  | .wrId _ | .wrCfg _ | .wrCmd _ | .wrStatus _ | .wrCtrHi _ | .wrCtrLo _ | .wrKeyPush _ | .wrKeyLen _ => true
  | .wrValue _ | .wrRstat _ | .wrPwdBcd0 _ | .wrPwdBcd1 _ | .wrPwdAsc _ _ | .wrDigest _ _ => true

/-- A header that the word-indexed port can carry: its low two bits are 0 (R60, R97). -/
def headerExists (hdr : Header) : Bool := hdr.extractLsb' 0 2 == 0#2

end Sys2Proof
end

