-- ==== Sys2Proof/Decode.lean ====
section
/-! DEFINITION. The decoder of both formats (spec/30_encoding.md R90 to R97), total, rejecting by name, and the
encoder written from the same tables. -/

namespace Sys2Proof

/-- Why an encoding stands for no instruction. -/
inductive DecodeError where
  /-- A command word other than the seven of R92 (R95). -/
  | illegalCommandWord
  /-- A header whose low two bits are not 0, which does not exist at the port (R97, R60). -/
  | noSuchHeader
  deriving DecidableEq, Repr

/-- The `OPC` code of an opcode (R92). -/
def Opc.code : Opc → BitVec 3
  | .nop => 0
  | .keyclr => 1
  | .hmac => 2
  | .trunc => 3
  | .render => 4
  | .otp => 5
  | .zeroize => 6

/-- The row of R92 that an opcode names. -/
def Opc.toInstr : Opc → Instr
  | .nop => .nop
  | .keyclr => .keyclr
  | .hmac => .hmac
  | .trunc => .trunc
  | .render => .render
  | .otp => .otp
  | .zeroize => .zeroize

/-- The opcode of a command word: `match`/`mask` of R92 over the whole word, so any bit of 31:4 or an opcode of 7 or
more makes the word illegal (R95). -/
def Opc.ofWord (w : Word) : Option Opc :=
  if w = 0x00000000#32 then some .nop
  else if w = 0x00000001#32 then some .keyclr
  else if w = 0x00000002#32 then some .hmac
  else if w = 0x00000003#32 then some .trunc
  else if w = 0x00000004#32 then some .render
  else if w = 0x00000005#32 then some .otp
  else if w = 0x00000006#32 then some .zeroize
  else none

/-- Format CMD (R91, R92, R95). -/
def decodeCmd (w : Word) : Except DecodeError Instr :=
  match Opc.ofWord w with
  | some op => .ok op.toInstr
  | none => .error .illegalCommandWord

/-- The field `widx = hdr[7:2]` (R97). -/
def Header.widx (hdr : Header) : BitVec 6 := hdr.extractLsb' 2 6

/-- The field `k = hdr[5:2]` of the DIGEST rows (R97). -/
def Header.digestIndex (hdr : Header) : BitVec 4 := hdr.extractLsb' 2 4

/-- The field `j = hdr[3:2]` of the PWD_ASC rows (R97). -/
def Header.ascIndex (hdr : Header) : BitVec 2 := hdr.extractLsb' 2 2

/-- The field `we = hdr[8]` (R97): 1 is a write. -/
def Header.we (hdr : Header) : Bool := hdr.getLsbD 8

/-- A row of the table of R97: a header is selected when `(hdr & mask) = match`. -/
structure BusRow where
  pattern : Header
  mask : Header
  /-- The instruction, from the header's index field and the data of a write. -/
  instr : Header → Word → Instr

/-- The header selects the row. -/
def BusRow.selects (r : BusRow) (hdr : Header) : Bool := hdr &&& r.mask == r.pattern

/-- The read rows of R97. -/
def readRows : List BusRow :=
  [{ pattern := 0x000#9, mask := 0x1FF#9, instr := fun _ _ => .rdId },
   { pattern := 0x004#9, mask := 0x1FF#9, instr := fun _ _ => .rdCfg },
   { pattern := 0x008#9, mask := 0x1FF#9, instr := fun _ _ => .rdCmd },
   { pattern := 0x00C#9, mask := 0x1FF#9, instr := fun _ _ => .rdStatus },
   { pattern := 0x010#9, mask := 0x1FF#9, instr := fun _ _ => .rdCtrHi },
   { pattern := 0x014#9, mask := 0x1FF#9, instr := fun _ _ => .rdCtrLo },
   { pattern := 0x018#9, mask := 0x1FF#9, instr := fun _ _ => .rdKeyPush },
   { pattern := 0x01C#9, mask := 0x1FF#9, instr := fun _ _ => .rdKeyLen },
   { pattern := 0x020#9, mask := 0x1FF#9, instr := fun _ _ => .rdValue },
   { pattern := 0x024#9, mask := 0x1FF#9, instr := fun _ _ => .rdRstat },
   { pattern := 0x028#9, mask := 0x1FF#9, instr := fun _ _ => .rdPwdBcd0 },
   { pattern := 0x02C#9, mask := 0x1FF#9, instr := fun _ _ => .rdPwdBcd1 },
   { pattern := 0x030#9, mask := 0x1F3#9, instr := fun hdr _ => .rdPwdAsc (Header.ascIndex hdr) },
   { pattern := 0x040#9, mask := 0x1C3#9, instr := fun hdr _ => .rdDigest (Header.digestIndex hdr) },
   { pattern := 0x080#9, mask := 0x183#9, instr := fun hdr _ => .rdRsvd (Header.widx hdr) }]

/-- The write rows of R97. -/
def writeRows : List BusRow :=
  [{ pattern := 0x100#9, mask := 0x1FF#9, instr := fun _ data => .wrId data },
   { pattern := 0x104#9, mask := 0x1FF#9, instr := fun _ data => .wrCfg data },
   { pattern := 0x108#9, mask := 0x1FF#9, instr := fun _ data => .wrCmd data },
   { pattern := 0x10C#9, mask := 0x1FF#9, instr := fun _ data => .wrStatus data },
   { pattern := 0x110#9, mask := 0x1FF#9, instr := fun _ data => .wrCtrHi data },
   { pattern := 0x114#9, mask := 0x1FF#9, instr := fun _ data => .wrCtrLo data },
   { pattern := 0x118#9, mask := 0x1FF#9, instr := fun _ data => .wrKeyPush data },
   { pattern := 0x11C#9, mask := 0x1FF#9, instr := fun _ data => .wrKeyLen data },
   { pattern := 0x120#9, mask := 0x1FF#9, instr := fun _ data => .wrValue data },
   { pattern := 0x124#9, mask := 0x1FF#9, instr := fun _ data => .wrRstat data },
   { pattern := 0x128#9, mask := 0x1FF#9, instr := fun _ data => .wrPwdBcd0 data },
   { pattern := 0x12C#9, mask := 0x1FF#9, instr := fun _ data => .wrPwdBcd1 data },
   { pattern := 0x130#9, mask := 0x1F3#9, instr := fun hdr data => .wrPwdAsc (Header.ascIndex hdr) data },
   { pattern := 0x140#9, mask := 0x1C3#9, instr := fun hdr data => .wrDigest (Header.digestIndex hdr) data },
   { pattern := 0x180#9, mask := 0x183#9, instr := fun hdr data => .wrRsvd (Header.widx hdr) data }]

/-- The table of R97, whole: 30 rows. -/
def busTable : List BusRow := readRows ++ writeRows

/-- Format BUS: the row of R97 that the header selects. -/
def decodeBus (hdr : Header) (data : Word) : Except DecodeError Instr :=
  match busTable.find? (BusRow.selects · hdr) with
  | some r => .ok (r.instr hdr data)
  | none => .error .noSuchHeader

/-- The decoder of both formats. -/
def decode : Encoding → Except DecodeError Instr
  | .cmd w => decodeCmd w
  | .bus hdr data => decodeBus hdr data

/-- A header from its fields `we`, `widx` and two zero bits (R97). -/
def Header.make (we : Bool) (widx : BitVec 6) : Header := (BitVec.ofBool we ++ widx ++ 0#2 : BitVec (1 + 6 + 2))

/-- The command word of an opcode (R92): `ZERO` is 0 and `OPC` the code. -/
def Opc.word (op : Opc) : Word := op.code.zeroExtend 32

/-- The header of a read of a slot. -/
def Encoding.read (widx : BitVec 6) : Encoding := .bus (Header.make false widx) 0#32

/-- The header and data of a write of a slot. -/
def Encoding.write (widx : BitVec 6) (data : Word) : Encoding := .bus (Header.make true widx) data

/-- The word index of `PWD_ASC` j, 12 + j (spec/20_memory.md R66). -/
def slotPwdAsc (j : BitVec 2) : BitVec 6 := 12#6 + j.zeroExtend 6

/-- The word index of `DIGEST` k, 16 + k (R66). -/
def slotDigest (k : BitVec 4) : BitVec 6 := 16#6 + k.zeroExtend 6

/-- The encoder: the slot numbers are the `widx` column of spec/20_memory.md R66. -/
def encode : Instr → Encoding
  | .nop => .cmd (Opc.word .nop)
  | .keyclr => .cmd (Opc.word .keyclr)
  | .hmac => .cmd (Opc.word .hmac)
  | .trunc => .cmd (Opc.word .trunc)
  | .render => .cmd (Opc.word .render)
  | .otp => .cmd (Opc.word .otp)
  | .zeroize => .cmd (Opc.word .zeroize)
  | .rdId => .read 0
  | .rdCfg => .read 1
  | .rdCmd => .read 2
  | .rdStatus => .read 3
  | .rdCtrHi => .read 4
  | .rdCtrLo => .read 5
  | .rdKeyPush => .read 6
  | .rdKeyLen => .read 7
  | .rdValue => .read 8
  | .rdRstat => .read 9
  | .rdPwdBcd0 => .read 10
  | .rdPwdBcd1 => .read 11
  | .rdPwdAsc j => .read (slotPwdAsc j)
  | .rdDigest k => .read (slotDigest k)
  | .rdRsvd widx => .read widx
  | .wrId d => .write 0 d
  | .wrCfg d => .write 1 d
  | .wrCmd d => .write 2 d
  | .wrStatus d => .write 3 d
  | .wrCtrHi d => .write 4 d
  | .wrCtrLo d => .write 5 d
  | .wrKeyPush d => .write 6 d
  | .wrKeyLen d => .write 7 d
  | .wrValue d => .write 8 d
  | .wrRstat d => .write 9 d
  | .wrPwdBcd0 d => .write 10 d
  | .wrPwdBcd1 d => .write 11 d
  | .wrPwdAsc j d => .write (slotPwdAsc j) d
  | .wrDigest k d => .write (slotDigest k) d
  | .wrRsvd widx d => .write widx d

/-- A read carries no data: its encoding with the data bits at 0. -/
def Encoding.canonical : Encoding → Encoding
  | .cmd w => .cmd w
  | .bus hdr data => .bus hdr (if Header.we hdr then data else 0#32)

/-- The encoding that `nbits` bits of the value `w` are, numbered as the opcode table numbers them (log 12): 32 bits
are a command word; otherwise bits 8:0 are the header, bits 15:9 must be 0, and bits 47:16 are the data of a write. -/
def Encoding.ofTableWord (nbits w : Nat) : Option Encoding :=
  if nbits = 32 then
    if w < 2 ^ 32 then some (.cmd (BitVec.ofNat 32 w)) else none
  else if w % 2 ^ 16 < 2 ^ 9 ∧ w < 2 ^ 48 then
    some (.bus (BitVec.ofNat 9 (w % 2 ^ 16)) (BitVec.ofNat 32 (w / 2 ^ 16)))
  else none

/-- What the decoder reads from a row of the opcode table. -/
def decodeTableWord (nbits w : Nat) : Option Instr :=
  match Encoding.ofTableWord nbits w with
  | some e => (decode e).toOption
  | none => none

end Sys2Proof
end

