-- ==== Sys2Proof/Config.lean ====
section
/-! DEFINITION. What an implementation fixes (spec/00_scope.md R5). There is no free value: the spec says that the
block has no unspecified value anywhere (spec/10_state.md R44, spec/93_implementation_defined.md). -/

namespace Sys2Proof

/-- `KEY_MAX`, the capacity of the key buffer in bytes: the default of R5 and decision D3 (log 6). -/
def Config.keyMax : Nat := 128

/-- `BASE`, the host address of register offset 0x00: OPEN in the spec (R5, D2), so nothing is known of it (log 7). -/
opaque Config.base : Nat

/-- `DIGITS_MIN`, the smallest legal digit count (R5). -/
def Config.digitsMin : Nat := 6

end Sys2Proof
end

