-- ==== Sys2Proof/Machine/State.lean ====
section
/-! DEFINITION. The state of the machine as plain data: `Block` is exactly the list of spec/10_state.md R20, `State`
adds the model's own port (the agents' turns still to come and the word the host read last), and both have their
values right after reset (R43). -/

namespace Sys2Proof.Machine

/-- The hash algorithm, the values of `CFG.ALG` (spec/10_state.md R29). Code 3 is reserved and can never be stored
(R30), so it has no name (log 11). -/
inductive Alg where
  | sha1 | sha256 | sha512
  deriving DecidableEq, Repr

/-- The five error flags of `STATUS` (spec/60_exceptions.md R281). -/
inductive ErrorFlag where
  /-- `ERR_CFG`, STATUS[8]: an illegal configuration word. -/
  | cfg
  /-- `ERR_KEY_EMPTY`, STATUS[9]: HMAC or OTP issued with no key. -/
  | keyEmpty
  /-- `ERR_KEY_OVF`, STATUS[10]: a push into a full key buffer. -/
  | keyOvf
  /-- `ERR_OPCODE`, STATUS[11]: an illegal command word. -/
  | opcode
  /-- `ERR_BUSY`, STATUS[12]: a write dropped because a command is in progress. -/
  | busy
  deriving DecidableEq, Repr

/-- A byte buffer as address and byte pairs in one canonical form: addresses strictly rising and no byte equal to what
an unlisted address reads as (log 10). -/
abbrev Memory := List Host.Cell

/-- The complete state of the block, "and nothing else" (spec/10_state.md R20). -/
structure Block where
  /-- `CFG.ALG` -/
  alg : Alg
  /-- `CFG.DIGITS` -/
  digits : BitVec 4
  /-- `CFG.INT_EN` -/
  intEn : Bool
  /-- `CTR`, the counter -/
  ctr : BitVec 64
  /-- `KEY[0..KEY_MAX-1]`, the secret -/
  key : Memory
  /-- `KEY_LEN`, the number of valid key bytes -/
  keyLen : Nat
  /-- `DG[0..63]`, the digest buffer -/
  dg : Memory
  /-- `VALUE`, the extracted integer -/
  value : BitVec 31
  /-- `OFFSET`, the offset used by the last TRUNC or OTP -/
  offset : BitVec 4
  /-- `DIG[0..15]`, the rendered digits, `DIG[0]` leftmost -/
  dig : Vector (BitVec 4) 16
  /-- `PWD_LEN`, the number of valid digits -/
  pwdLen : BitVec 4
  /-- `BUSY`: a command is in progress -/
  busy : Bool
  /-- `DONE`: a command has finished or was rejected -/
  done : Bool
  /-- `ERR_CFG` -/
  errCfg : Bool
  /-- `ERR_KEY_EMPTY` -/
  errKeyEmpty : Bool
  /-- `ERR_KEY_OVF` -/
  errKeyOvf : Bool
  /-- `ERR_OPCODE` -/
  errOpcode : Bool
  /-- `ERR_BUSY` -/
  errBusy : Bool
  /-- `OPL`, the opcode of the command in progress -/
  opl : Opc
  deriving DecidableEq, Repr

/-- The block right after reset (spec/10_state.md R43, spec/70_reset_and_hazards.md R320). -/
def Block.reset : Block where
  alg := .sha1
  digits := 6
  intEn := false
  ctr := 0
  key := []
  keyLen := 0
  dg := []
  value := 0
  offset := 0
  dig := Vector.replicate 16 0
  pwdLen := 0
  busy := false
  done := false
  errCfg := false
  errKeyEmpty := false
  errKeyOvf := false
  errOpcode := false
  errBusy := false
  opl := .nop

/-- One turn of one agent (spec/00_scope.md R12). Which agent takes the next step, and what the host does, is a
parameter of a run (R12); the model holds it as a list (log 1). -/
inductive Turn where
  /-- The host's transaction: a header and the data a write carries (spec/20_memory.md R60, spec/30_encoding.md R97). -/
  | host (hdr : Header) (data : Word)
  /-- The sequencer may take its step, Complete (spec/40_command_sequencing.md R124). -/
  | sequencer
  /-- The reset agent takes its step (spec/70_reset_and_hazards.md R320). -/
  | reset
  deriving DecidableEq, Repr

/-- The machine: the block, and the model's own port. -/
structure State where
  /-- The block's architectural state. -/
  block : Block
  /-- The word the most recent read returned to the host (spec/20_memory.md R60; no state of the block, log 4). -/
  rdata : Word
  /-- The agents' turns still to come, the next one first (a parameter of the run, no state of the block, log 1). -/
  turns : List Turn
  deriving DecidableEq, Repr

/-- The machine right after reset: every component of the block at its value of R43; no turn is invented (log 1). -/
def State.reset : State where
  block := Block.reset
  rdata := 0
  turns := []

/-- No operation of this hardware stops the machine with a fault: errors are sticky flags and nothing traps
(spec/60_exceptions.md R280, R291), so the type has no constructor. Safe: it can hide no behaviour. -/
inductive Fault where
  deriving DecidableEq, Repr

/-- Why a step has no meaning. -/
inductive Refusal where
  /-- An instruction whose meaning the model does not give yet; raised by exec's refused arms only. Safe: nothing is
  provable about what the instruction does. -/
  | notModelled (mnemonic : String)
  /-- A host turn whose header has its low two bits not 0: no such transaction exists at the word-indexed port
  (spec/20_memory.md R60, R64: a model that cannot show such accesses absent must refuse them). Raised by fetching a
  turn. Safe: nothing is claimed of a run that holds one (log 9). -/
  | noSuchHeader
  deriving DecidableEq, Repr

end Sys2Proof.Machine
end

