-- ==== Sys2Proof/Machine/Ops.lean ====
section
/-! DEFINITION. The named operations over byte sequences, the byte buffers and the block: big-endian conversion,
reading and writing bytes, raising an error (the block's one form of an exception), accepting and finishing a command,
and the busy rule of a host write. -/

namespace Sys2Proof.Machine

/-! ### Byte sequences (spec/00_scope.md R7) -/

/-- `s[i]`; every rule that uses it keeps `i` inside `s`. -/
def byteAt (s : List Byte) (i : Nat) : Byte := s.getD i 0

/-- `be32(s, i)`: the byte at the lowest index is the most significant (R7). -/
def be32 (s : List Byte) (i : Nat) : BitVec 32 :=
  (byteAt s i ++ byteAt s (i + 1) ++ byteAt s (i + 2) ++ byteAt s (i + 3) : BitVec (8 + 8 + 8 + 8))

/-- `be64(s, i)`, the same over eight bytes (R7). -/
def be64 (s : List Byte) (i : Nat) : BitVec 64 := (be32 s i ++ be32 s (i + 4) : BitVec (32 + 32))

/-- `bytes_be(v, n)`: byte `k` is `v[8*(n-1-k)+7 : 8*(n-1-k)]` (R7). -/
def bytesBe {w : Nat} (v : BitVec w) (n : Nat) : List Byte :=
  (List.range n).map fun k => v.extractLsb' (8 * (n - 1 - k)) 8

/-- `zeros(n)` (R7). -/
def zeros (n : Nat) : List Byte := List.replicate n 0

/-! ### The byte buffers -/

/-- What an unlisted byte of `KEY` or `DG` reads as: their reset contents, 0x00 (spec/10_state.md R43). -/
def Memory.unlisted : Byte := 0

/-- The number of bytes of the digest buffer `DG[0..63]` (spec/10_state.md R23). -/
def dgSize : Nat := 64

/-- One byte of a buffer. -/
def Memory.read : Memory → Nat → Byte
  | [], _ => Memory.unlisted
  | (a, b) :: m, i => if a = i then b else Memory.read m i

/-- Writing one byte keeps the canonical form: the value an unlisted byte reads as is not listed. -/
def Memory.write : Memory → Nat → Byte → Memory
  | [], i, v => if v = Memory.unlisted then [] else [(i, v)]
  | (a, b) :: m, i, v =>
    if i < a then
      if v = Memory.unlisted then (a, b) :: m else (i, v) :: (a, b) :: m
    else if i = a then
      if v = Memory.unlisted then m else (i, v) :: m
    else (a, b) :: Memory.write m i v

/-- Writing a byte sequence from an address on. -/
def Memory.writeBytes (m : Memory) (i : Nat) : List Byte → Memory
  | [] => m
  | b :: bs => Memory.writeBytes (m.write i b) (i + 1) bs

/-- `MemRead(space, i, n)`: the bytes `space[i..i+n-1]` (spec/00_scope.md R9). -/
def Memory.readBytes (m : Memory) (i n : Nat) : List Byte := (List.range n).map fun k => m.read (i + k)

/-- Every listed address is at least `lo`, they rise strictly, and no listed byte is what an unlisted one reads as. -/
def Memory.risesFrom (lo : Nat) : Memory → Bool
  | [] => true
  | (a, b) :: m => decide (lo ≤ a) && decide (b ≠ Memory.unlisted) && Memory.risesFrom (a + 1) m

/-- Every listed address lies in a buffer of `size` bytes. -/
def Memory.below (size : Nat) (m : Memory) : Bool := m.all fun c => decide (c.1 < size)

/-- The canonical form of a buffer of `size` bytes. -/
def Memory.wf (size : Nat) (m : Memory) : Bool := Memory.risesFrom 0 m && Memory.below size m

/-! ### Errors (spec/60_exceptions.md R281, R290) -/

/-- Set one sticky bit. -/
def setError (e : ErrorFlag) (b : Block) : Block :=
  match e with
  | .cfg => { b with errCfg := true }
  | .keyEmpty => { b with errKeyEmpty := true }
  | .keyOvf => { b with errKeyOvf := true }
  | .opcode => { b with errOpcode := true }
  | .busy => { b with errBusy := true }

/-- The errors of a rejected `CMD` write also set `DONE` (R290, spec/40_command_sequencing.md R121, R123). -/
def ErrorFlag.setsDone : ErrorFlag → Bool
  | .keyEmpty | .opcode => true
  | .cfg | .keyOvf | .busy => false

/-- `raise`, the whole of the error entry (spec/00_scope.md R10, spec/60_exceptions.md R290): the one `ERR` bit is set,
for the two `CMD` errors `DONE` is also set, and nothing else changes. -/
def raiseError (e : ErrorFlag) (b : Block) : Block :=
  let b' := setError e b
  if e.setsDone then { b' with done := true } else b'

/-! ### The sequencer (spec/10_state.md R24, spec/40_command_sequencing.md R122, R124) -/

/-- Acceptance: `OPL <- w[2:0]; BUSY <- 1; DONE <- 0` (R122). -/
def accept (op : Opc) (b : Block) : Block := { b with opl := op, busy := true, done := false }

/-- The end of Complete: `BUSY <- 0; DONE <- 1` (R124). -/
def finish (b : Block) : Block := { b with busy := false, done := true }

/-! ### Steps on the machine -/

/-- Change the block and nothing else. -/
def State.onBlock (f : Block → Block) (s : State) : State := { s with block := f s.block }

/-- A read: the word goes to the host and no state of the block changes (spec/45_register_access.md R210). -/
def hostRead (f : Block → Word) (s : State) : Host.Outcome State Fault Refusal :=
  .next { s with rdata := f s.block }

/-- A write of a register of `WR_SET`: while busy it is dropped and raises `ERR_BUSY`, with no further check
(spec/45_register_access.md R211, spec/60_exceptions.md R289). -/
def hostWrite (f : Block → Block) (s : State) : Host.Outcome State Fault Refusal :=
  .next (s.onBlock fun b => if b.busy then raiseError .busy b else f b)

/-- A write of a register that ignores writes, in idle and busy state alike (spec/45_register_access.md R234, R235). -/
def ignoredWrite (s : State) : Host.Outcome State Fault Refusal := .next s

/-- Complete: the command's effect, then `BUSY <- 0; DONE <- 1`, as one step (spec/40_command_sequencing.md R124). -/
def complete (effect : Block → Block) (s : State) : Host.Outcome State Fault Refusal :=
  .next (s.onBlock fun b => finish (effect b))

/-- The reset step of the block (spec/70_reset_and_hazards.md R320): every component at its value of R43, in every state,
idle or busy. What the host has read and what the agents do next are no state of the block (log 4). -/
def resetBlock (s : State) : State := s.onBlock fun _ => Block.reset

/-- The host address of a slot, `BASE + 4 * widx` (spec/20_memory.md R60). No rule of the block reads it (log 7). -/
def hostAddress (widx : BitVec 6) : Nat := Config.base + 4 * widx.toNat

end Sys2Proof.Machine
end

