-- ==== Sys2Proof/Machine/Operands.lean ====
section
/-! DEFINITION. How registers are laid out in the words the host reads and writes: `CFG`, `CTR`, `VALUE`, `RSTAT`, the
digest words and the two password views (spec/10_state.md R28 to R40, spec/20_memory.md R62, spec/30_encoding.md R94). -/

namespace Sys2Proof.Machine

/-- One bit as a word. -/
def bitWord (x : Bool) : Word := (BitVec.ofBool x).zeroExtend 32

/-- The constant `ID` (spec/10_state.md R28). -/
def idWord : Word := 0x4F545031#32

/-! ### `CFG` -/

/-- The code of an algorithm (spec/10_state.md R29). -/
def Alg.code : Alg → BitVec 2
  | .sha1 => 0
  | .sha256 => 1
  | .sha512 => 2

/-- The algorithm of a code; 3 is reserved (R29). -/
def Alg.ofCode (c : BitVec 2) : Option Alg :=
  if c = 0 then some .sha1 else if c = 1 then some .sha256 else if c = 2 then some .sha512 else none

/-- `L(alg)`, the digest length in bytes (spec/00_scope.md R5). -/
def Alg.digestLen : Alg → Nat
  | .sha1 => 20
  | .sha256 => 32
  | .sha512 => 64

/-- `B(alg)`, the block length in bytes (spec/00_scope.md R5, spec/44_sha.md R190). -/
def Alg.blockLen : Alg → Nat
  | .sha1 => 64
  | .sha256 => 64
  | .sha512 => 128

/-- The word a read of `CFG` returns (spec/45_register_access.md R214). -/
def cfgWord (b : Block) : Word :=
  bitWord b.intEn <<< 8 ||| b.digits.zeroExtend 32 <<< 4 ||| b.alg.code.zeroExtend 32

/-- The configuration a written word stands for, if it is legal: `ALG = data[1:0]` not 3 and `DIGITS = data[7:4]` at
least 6; the other bits are ignored (spec/45_register_access.md R213, spec/30_encoding.md R94). -/
def cfgOfWord (data : Word) : Option (Alg × BitVec 4 × Bool) :=
  match Alg.ofCode (data.extractLsb' 0 2) with
  | none => none
  | some a =>
    if (data.extractLsb' 4 4).toNat < Config.digitsMin then none
    else some (a, data.extractLsb' 4 4, data.getLsbD 8)

/-! ### `CTR`, `VALUE`, `KEY_LEN`, `RSTAT` -/

/-- `CTR_HI = CTR[63:32]` (spec/10_state.md R21). -/
def ctrHi (b : Block) : Word := b.ctr.extractLsb' 32 32

/-- `CTR_LO = CTR[31:0]` (R21). -/
def ctrLo (b : Block) : Word := b.ctr.extractLsb' 0 32

/-- `CTR[63:32] <- data` (spec/45_register_access.md R221). -/
def setCtrHi (data : Word) (b : Block) : Block := { b with ctr := (data ++ ctrLo b : BitVec (32 + 32)) }

/-- `CTR[31:0] <- data` (spec/45_register_access.md R223). -/
def setCtrLo (data : Word) (b : Block) : Block := { b with ctr := (ctrHi b ++ data : BitVec (32 + 32)) }

/-- `VALUE` as a word: bit 31 reads 0 (spec/45_register_access.md R227). -/
def valueWord (b : Block) : Word := b.value.zeroExtend 32

/-- `VALUE <- data[30:0]` (spec/45_register_access.md R226). -/
def setValue (data : Word) (b : Block) : Block := { b with value := data.extractLsb' 0 31 }

/-- `zext_32(KEY_LEN)` (spec/10_state.md R35). -/
def keyLenWord (b : Block) : Word := BitVec.ofNat 32 b.keyLen

/-- `RSTAT`: `(PWD_LEN << 8) | OFFSET` (spec/45_register_access.md R228). -/
def rstatWord (b : Block) : Word := b.pwdLen.zeroExtend 32 <<< 8 ||| b.offset.zeroExtend 32

/-! ### The digest words -/

/-- `DIGESTk = be32(DG, 4k)` (spec/20_memory.md R62). -/
def digestWord (b : Block) (k : BitVec 4) : Word := be32 (b.dg.readBytes (4 * k.toNat) 4) 0

/-- A write of `DIGESTk`: four bytes, the most significant at the lowest index (R62). -/
def setDigestWord (k : BitVec 4) (data : Word) (b : Block) : Block :=
  { b with dg := b.dg.writeBytes (4 * k.toNat) (bytesBe data 4) }

/-! ### The password views -/

/-- The digit at a position of the digit file (spec/10_state.md R38). -/
def digit (b : Block) (i : Nat) : BitVec 4 := b.dig.getD i 0

/-- `nib(i) = DIG[i]` if `i < PWD_LEN`, else `0xF` (spec/10_state.md R39). -/
def nib (b : Block) (i : Nat) : BitVec 4 := if i < b.pwdLen.toNat then digit b i else 0xF

/-- `chr(i) = 0x30 + DIG[i]` if `i < PWD_LEN`, else `0x00` (spec/10_state.md R40; the codes are from general knowledge,
log 13). -/
def chr (b : Block) (i : Nat) : Byte := if i < b.pwdLen.toNat then 0x30#8 + (digit b i).zeroExtend 8 else 0x00

/-- Eight nibbles from position `i`, the first in bits 31:28 (R39). -/
def bcdWord (b : Block) (i : Nat) : Word :=
  (nib b i ++ nib b (i + 1) ++ nib b (i + 2) ++ nib b (i + 3) ++ nib b (i + 4) ++ nib b (i + 5) ++ nib b (i + 6)
    ++ nib b (i + 7) : BitVec (4 + 4 + 4 + 4 + 4 + 4 + 4 + 4))

/-- `PWD_ASCj = {chr(4j), chr(4j+1), chr(4j+2), chr(4j+3)}` (R40). -/
def ascWord (b : Block) (j : BitVec 2) : Word :=
  (chr b (4 * j.toNat) ++ chr b (4 * j.toNat + 1) ++ chr b (4 * j.toNat + 2) ++ chr b (4 * j.toNat + 3) :
    BitVec (8 + 8 + 8 + 8))

end Sys2Proof.Machine
end

