-- ==== Sys2Proof/Machine/Flags.lean ====
section
/-! DEFINITION. The flags: the `STATUS` word, its write-one-to-clear write, and the interrupt output
(spec/10_state.md R34, spec/45_register_access.md R219, R220, spec/60_exceptions.md R286). -/

namespace Sys2Proof.Machine

/-- The word a read of `STATUS` returns (spec/45_register_access.md R220). -/
def statusWord (b : Block) : Word :=
  bitWord b.errBusy <<< 12 ||| bitWord b.errOpcode <<< 11 ||| bitWord b.errKeyOvf <<< 10
    ||| bitWord b.errKeyEmpty <<< 9 ||| bitWord b.errCfg <<< 8 ||| bitWord b.done <<< 1 ||| bitWord b.busy

/-- Write-one-to-clear: a 1 in the written bit clears the flag, a 0 leaves it; no flag can be set (R219). -/
def w1c (flag : Bool) (data : Word) (bit : Nat) : Bool := flag && !data.getLsbD bit

/-- The write of `STATUS`, in idle and busy state alike (spec/45_register_access.md R219). By it the host acknowledges
completion and errors: the way back from an error (spec/60_exceptions.md R292). -/
def ackStatus (data : Word) (b : Block) : Block :=
  { b with
    done := w1c b.done data 1
    errCfg := w1c b.errCfg data 8
    errKeyEmpty := w1c b.errKeyEmpty data 9
    errKeyOvf := w1c b.errKeyOvf data 10
    errOpcode := w1c b.errOpcode data 11
    errBusy := w1c b.errBusy data 12 }

/-- The level interrupt output, `irq = CFG.INT_EN & STATUS.DONE`, a function of state (spec/60_exceptions.md R286). -/
def irq (b : Block) : Bool := b.intEn && b.done

/-- The value of an error flag. -/
def errorBit (b : Block) : ErrorFlag → Bool
  | .cfg => b.errCfg
  | .keyEmpty => b.errKeyEmpty
  | .keyOvf => b.errKeyOvf
  | .opcode => b.errOpcode
  | .busy => b.errBusy

/-- The bit of `STATUS` an error flag stands at, its code (spec/60_exceptions.md R281). -/
def ErrorFlag.code : ErrorFlag → Nat
  | .cfg => 8
  | .keyEmpty => 9
  | .keyOvf => 10
  | .opcode => 11
  | .busy => 12

end Sys2Proof.Machine
end

