-- ==== Sys2Proof/Machine/Read.lean ====
section
/-! DEFINITION. The meaning of every bus read (spec/45_register_access.md): a word computed from the state; no read
changes the block (R210). -/

namespace Sys2Proof.Machine

/-- RD.ID (R212). -/
def execRdId (s : State) : Host.Outcome State Fault Refusal := hostRead (fun _ => idWord) s

/-- RD.CFG (R214). -/
def execRdCfg (s : State) : Host.Outcome State Fault Refusal := hostRead cfgWord s

/-- RD.CMD (R216): the last command word is not readable. -/
def execRdCmd (s : State) : Host.Outcome State Fault Refusal := hostRead (fun _ => 0) s

/-- RD.STATUS (R220): reading clears nothing. -/
def execRdStatus (s : State) : Host.Outcome State Fault Refusal := hostRead statusWord s

/-- RD.CTR_HI (R222). -/
def execRdCtrHi (s : State) : Host.Outcome State Fault Refusal := hostRead ctrHi s

/-- RD.CTR_LO (R224). -/
def execRdCtrLo (s : State) : Host.Outcome State Fault Refusal := hostRead ctrLo s

/-- RD.KEY_PUSH (R218): no key byte is ever returned. -/
def execRdKeyPush (s : State) : Host.Outcome State Fault Refusal := hostRead (fun _ => 0) s

/-- RD.KEY_LEN (R225). -/
def execRdKeyLen (s : State) : Host.Outcome State Fault Refusal := hostRead keyLenWord s

/-- RD.VALUE (R227). -/
def execRdValue (s : State) : Host.Outcome State Fault Refusal := hostRead valueWord s

/-- RD.RSTAT (R228). -/
def execRdRstat (s : State) : Host.Outcome State Fault Refusal := hostRead rstatWord s

/-- RD.PWD_BCD0 (R229). -/
def execRdPwdBcd0 (s : State) : Host.Outcome State Fault Refusal := hostRead (bcdWord · 0) s

/-- RD.PWD_BCD1 (R230). -/
def execRdPwdBcd1 (s : State) : Host.Outcome State Fault Refusal := hostRead (bcdWord · 8) s

/-- RD.PWD_ASC j (R231). -/
def execRdPwdAsc (j : BitVec 2) (s : State) : Host.Outcome State Fault Refusal := hostRead (ascWord · j) s

/-- RD.DIGEST k (R233). -/
def execRdDigest (k : BitVec 4) (s : State) : Host.Outcome State Fault Refusal := hostRead (digestWord · k) s

/-- RD.RSVD (R235): a reserved slot reads as zero. -/
def execRdRsvd (_widx : BitVec 6) (s : State) : Host.Outcome State Fault Refusal := hostRead (fun _ => 0) s

end Sys2Proof.Machine
end

