-- ==== Sys2Proof/Machine/Sha.lean ====
section
/-! DEFINITION. The hash functions SHA-1, SHA-256 and SHA-512 as spec/44_sha.md writes them out (R180 to R190; the spec
marks them as general knowledge, log 8). SHA-256 and SHA-512 differ in their word width and constants only and are one
function of those. -/

namespace Sys2Proof.Machine

/-! ### Word operations (R180); `+` is addition modulo `2^w` -/

/-- `ROTR(x, n)`, for `0 < n < w`: the low `n` bits re-enter at the top. -/
def rotr {w : Nat} (x : BitVec w) (n : Nat) : BitVec w := (x >>> n) ||| (x <<< (w - n))

/-- `ROTL(x, n) = ROTR(x, w - n)`. -/
def rotl {w : Nat} (x : BitVec w) (n : Nat) : BitVec w := (x <<< n) ||| (x >>> (w - n))

/-- `Ch(x, y, z)`. -/
def ch {w : Nat} (x y z : BitVec w) : BitVec w := (x &&& y) ^^^ (~~~x &&& z)

/-- `Maj(x, y, z)`. -/
def maj {w : Nat} (x y z : BitVec w) : BitVec w := (x &&& y) ^^^ (x &&& z) ^^^ (y &&& z)

/-- `Parity(x, y, z)`. -/
def parity {w : Nat} (x y z : BitVec w) : BitVec w := x ^^^ y ^^^ z

/-! ### Padding and parsing (R181, R182) -/

/-- `z`, the smallest number of zero bytes that makes the padded length a multiple of `bk`, for a message of `n` bytes
and a length field of `q` (R181). -/
def padZeros (bk q n : Nat) : Nat := (bk - (n + 1 + q) % bk) % bk

/-- The padded message (R181): the length field is the number of bits. -/
def padMessage (bk q : Nat) (m : List Byte) : List Byte :=
  m ++ [0x80#8] ++ zeros (padZeros bk q m.length) ++ bytesBe (BitVec.ofNat (8 * q) (8 * m.length)) q

/-- The first `n` blocks of `bk` bytes, in order (R181). -/
def blocksOf (bk : Nat) : Nat → List Byte → List (List Byte)
  | 0, _ => []
  | n + 1, s => s.take bk :: blocksOf bk n (s.drop bk)

/-- The blocks of the padded message (R181). -/
def paddedBlocks (bk q : Nat) (m : List Byte) : List (List Byte) :=
  blocksOf bk ((padMessage bk q m).length / bk) (padMessage bk q m)

/-- A block as 16 big-endian 32-bit words (R182). -/
def parse32 (block : List Byte) : List (BitVec 32) := (List.range 16).map fun t => be32 block (4 * t)

/-- A block as 16 big-endian 64-bit words (R182). -/
def parse64 (block : List Byte) : List (BitVec 64) := (List.range 16).map fun t => be64 block (8 * t)

/-- Extend a message schedule by `n` words. The list is held newest first, so that its entry `i` is `W[t-1-i]`. -/
def extendSchedule {w : Nat} (next : List (BitVec w) → BitVec w) : Nat → List (BitVec w) → List (BitVec w)
  | 0, ws => ws
  | n + 1, ws => extendSchedule next n (next ws :: ws)

/-- The whole schedule, oldest word first, from the 16 words of a block and the number of words to add. -/
def schedule {w : Nat} (next : List (BitVec w) → BitVec w) (n : Nat) (block : List (BitVec w)) : List (BitVec w) :=
  (extendSchedule next n block.reverse).reverse

/-- `W[t-k]` of a schedule held newest first. -/
def back {w : Nat} (ws : List (BitVec w)) (k : Nat) : BitVec w := ws.getD (k - 1) 0

/-! ### SHA-1 (R183, R184) -/

/-- The five working variables, and the five hash words. -/
structure Regs5 where
  a : BitVec 32
  b : BitVec 32
  c : BitVec 32
  d : BitVec 32
  e : BitVec 32
  deriving DecidableEq, Repr

/-- The initial hash value (R183). -/
def sha1Init : Regs5 := ⟨0x67452301#32, 0xEFCDAB89#32, 0x98BADCFE#32, 0x10325476#32, 0xC3D2E1F0#32⟩

/-- The round constant `K(t)` (R183). -/
def sha1K (t : Nat) : BitVec 32 :=
  if t < 20 then 0x5A827999#32
  else if t < 40 then 0x6ED9EBA1#32
  else if t < 60 then 0x8F1BBCDC#32
  else 0xCA62C1D6#32

/-- The round function `f(t; x, y, z)` (R183). -/
def sha1F (t : Nat) (x y z : BitVec 32) : BitVec 32 :=
  if t < 20 then ch x y z
  else if t < 40 then parity x y z
  else if t < 60 then maj x y z
  else parity x y z

/-- `ROTL(W[t-3] ^ W[t-8] ^ W[t-14] ^ W[t-16], 1)` (R184). -/
def sha1Next (ws : List (BitVec 32)) : BitVec 32 := rotl (back ws 3 ^^^ back ws 8 ^^^ back ws 14 ^^^ back ws 16) 1

/-- One round (R184). -/
def sha1Round (r : Regs5) (t : Nat) (wt : BitVec 32) : Regs5 where
  a := rotl r.a 5 + sha1F t r.b r.c r.d + r.e + sha1K t + wt
  b := r.a
  c := rotl r.b 30
  d := r.c
  e := r.d

/-- The rounds from `t` on, one for each word of the schedule left. -/
def sha1Rounds : Nat → List (BitVec 32) → Regs5 → Regs5
  | _, [], r => r
  | t, wt :: ws, r => sha1Rounds (t + 1) ws (sha1Round r t wt)

/-- One block (R184): 80 rounds, then the working variables are added to the hash words. -/
def sha1Block (h : Regs5) (block : List Byte) : Regs5 :=
  let r := sha1Rounds 0 (schedule sha1Next 64 (parse32 block)) h
  ⟨h.a + r.a, h.b + r.b, h.c + r.c, h.d + r.d, h.e + r.e⟩

/-- The digest: the hash words, each big-endian, first word first (R190). -/
def Regs5.bytes (r : Regs5) : List Byte :=
  bytesBe r.a 4 ++ bytesBe r.b 4 ++ bytesBe r.c 4 ++ bytesBe r.d 4 ++ bytesBe r.e 4

/-- `SHA1(M)` (R184). -/
def sha1 (m : List Byte) : List Byte := ((paddedBlocks 64 8 m).foldl sha1Block sha1Init).bytes

/-! ### SHA-256 and SHA-512 (R185 to R189) -/

/-- The eight working variables, and the eight hash words. -/
structure Regs8 (w : Nat) where
  a : BitVec w
  b : BitVec w
  c : BitVec w
  d : BitVec w
  e : BitVec w
  f : BitVec w
  g : BitVec w
  h : BitVec w
  deriving DecidableEq, Repr

/-- What tells SHA-256 and SHA-512 apart: the rotation and shift amounts of `S0`, `S1`, `s0`, `s1` and the constants. -/
structure Sha2 (w : Nat) where
  bigS0 : Nat × Nat × Nat
  bigS1 : Nat × Nat × Nat
  smallS0 : Nat × Nat × Nat
  smallS1 : Nat × Nat × Nat
  consts : List (BitVec w)
  init : Regs8 w

/-- `ROTR(x, i) ^ ROTR(x, j) ^ ROTR(x, k)`: the shape of `S0` and `S1` (R185, R188). -/
def bigSigma {w : Nat} (n : Nat × Nat × Nat) (x : BitVec w) : BitVec w := rotr x n.1 ^^^ rotr x n.2.1 ^^^ rotr x n.2.2

/-- `ROTR(x, i) ^ ROTR(x, j) ^ SHR(x, k)`: the shape of `s0` and `s1` (R185, R188). -/
def smallSigma {w : Nat} (n : Nat × Nat × Nat) (x : BitVec w) : BitVec w := rotr x n.1 ^^^ rotr x n.2.1 ^^^ (x >>> n.2.2)

/-- The SHA-256 round constants (spec/44_sha.md R186), from t = 0 on. -/
def sha256KRows0 : List (BitVec 32) :=
  [0x428A2F98#32, 0x71374491#32, 0xB5C0FBCF#32, 0xE9B5DBA5#32,
   0x3956C25B#32, 0x59F111F1#32, 0x923F82A4#32, 0xAB1C5ED5#32,
   0xD807AA98#32, 0x12835B01#32, 0x243185BE#32, 0x550C7DC3#32,
   0x72BE5D74#32, 0x80DEB1FE#32, 0x9BDC06A7#32, 0xC19BF174#32,
   0xE49B69C1#32, 0xEFBE4786#32, 0x0FC19DC6#32, 0x240CA1CC#32,
   0x2DE92C6F#32, 0x4A7484AA#32, 0x5CB0A9DC#32, 0x76F988DA#32,
   0x983E5152#32, 0xA831C66D#32, 0xB00327C8#32, 0xBF597FC7#32,
   0xC6E00BF3#32, 0xD5A79147#32, 0x06CA6351#32, 0x14292967#32]

/-- The SHA-256 round constants (spec/44_sha.md R186), from t = 32 on. -/
def sha256KRows32 : List (BitVec 32) :=
  [0x27B70A85#32, 0x2E1B2138#32, 0x4D2C6DFC#32, 0x53380D13#32,
   0x650A7354#32, 0x766A0ABB#32, 0x81C2C92E#32, 0x92722C85#32,
   0xA2BFE8A1#32, 0xA81A664B#32, 0xC24B8B70#32, 0xC76C51A3#32,
   0xD192E819#32, 0xD6990624#32, 0xF40E3585#32, 0x106AA070#32,
   0x19A4C116#32, 0x1E376C08#32, 0x2748774C#32, 0x34B0BCB5#32,
   0x391C0CB3#32, 0x4ED8AA4A#32, 0x5B9CCA4F#32, 0x682E6FF3#32,
   0x748F82EE#32, 0x78A5636F#32, 0x84C87814#32, 0x8CC70208#32,
   0x90BEFFFA#32, 0xA4506CEB#32, 0xBEF9A3F7#32, 0xC67178F2#32]

/-- The SHA-256 round constants (spec/44_sha.md R186), whole. -/
def sha256K : List (BitVec 32) :=
  sha256KRows0 ++ sha256KRows32

/-- The SHA-512 round constants (spec/44_sha.md R188), from t = 0 on. -/
def sha512KRows0 : List (BitVec 64) :=
  [0x428A2F98D728AE22#64, 0x7137449123EF65CD#64, 0xB5C0FBCFEC4D3B2F#64, 0xE9B5DBA58189DBBC#64,
   0x3956C25BF348B538#64, 0x59F111F1B605D019#64, 0x923F82A4AF194F9B#64, 0xAB1C5ED5DA6D8118#64,
   0xD807AA98A3030242#64, 0x12835B0145706FBE#64, 0x243185BE4EE4B28C#64, 0x550C7DC3D5FFB4E2#64,
   0x72BE5D74F27B896F#64, 0x80DEB1FE3B1696B1#64, 0x9BDC06A725C71235#64, 0xC19BF174CF692694#64,
   0xE49B69C19EF14AD2#64, 0xEFBE4786384F25E3#64, 0x0FC19DC68B8CD5B5#64, 0x240CA1CC77AC9C65#64]

/-- The SHA-512 round constants (spec/44_sha.md R188), from t = 20 on. -/
def sha512KRows20 : List (BitVec 64) :=
  [0x2DE92C6F592B0275#64, 0x4A7484AA6EA6E483#64, 0x5CB0A9DCBD41FBD4#64, 0x76F988DA831153B5#64,
   0x983E5152EE66DFAB#64, 0xA831C66D2DB43210#64, 0xB00327C898FB213F#64, 0xBF597FC7BEEF0EE4#64,
   0xC6E00BF33DA88FC2#64, 0xD5A79147930AA725#64, 0x06CA6351E003826F#64, 0x142929670A0E6E70#64,
   0x27B70A8546D22FFC#64, 0x2E1B21385C26C926#64, 0x4D2C6DFC5AC42AED#64, 0x53380D139D95B3DF#64,
   0x650A73548BAF63DE#64, 0x766A0ABB3C77B2A8#64, 0x81C2C92E47EDAEE6#64, 0x92722C851482353B#64]

/-- The SHA-512 round constants (spec/44_sha.md R188), from t = 40 on. -/
def sha512KRows40 : List (BitVec 64) :=
  [0xA2BFE8A14CF10364#64, 0xA81A664BBC423001#64, 0xC24B8B70D0F89791#64, 0xC76C51A30654BE30#64,
   0xD192E819D6EF5218#64, 0xD69906245565A910#64, 0xF40E35855771202A#64, 0x106AA07032BBD1B8#64,
   0x19A4C116B8D2D0C8#64, 0x1E376C085141AB53#64, 0x2748774CDF8EEB99#64, 0x34B0BCB5E19B48A8#64,
   0x391C0CB3C5C95A63#64, 0x4ED8AA4AE3418ACB#64, 0x5B9CCA4F7763E373#64, 0x682E6FF3D6B2B8A3#64,
   0x748F82EE5DEFB2FC#64, 0x78A5636F43172F60#64, 0x84C87814A1F0AB72#64, 0x8CC702081A6439EC#64]

/-- The SHA-512 round constants (spec/44_sha.md R188), from t = 60 on. -/
def sha512KRows60 : List (BitVec 64) :=
  [0x90BEFFFA23631E28#64, 0xA4506CEBDE82BDE9#64, 0xBEF9A3F7B2C67915#64, 0xC67178F2E372532B#64,
   0xCA273ECEEA26619C#64, 0xD186B8C721C0C207#64, 0xEADA7DD6CDE0EB1E#64, 0xF57D4F7FEE6ED178#64,
   0x06F067AA72176FBA#64, 0x0A637DC5A2C898A6#64, 0x113F9804BEF90DAE#64, 0x1B710B35131C471B#64,
   0x28DB77F523047D84#64, 0x32CAAB7B40C72493#64, 0x3C9EBE0A15C9BEBC#64, 0x431D67C49C100D4C#64,
   0x4CC5D4BECB3E42B6#64, 0x597F299CFC657E2A#64, 0x5FCB6FAB3AD6FAEC#64, 0x6C44198C4A475817#64]

/-- The SHA-512 round constants (spec/44_sha.md R188), whole. -/
def sha512K : List (BitVec 64) :=
  sha512KRows0 ++ sha512KRows20 ++ sha512KRows40 ++ sha512KRows60

/-- SHA-256: the functions and constants of R185 and R186. -/
def sha256Params : Sha2 32 where
  bigS0 := (2, 13, 22)
  bigS1 := (6, 11, 25)
  smallS0 := (7, 18, 3)
  smallS1 := (17, 19, 10)
  consts := sha256K
  init := ⟨0x6A09E667#32, 0xBB67AE85#32, 0x3C6EF372#32, 0xA54FF53A#32,
    0x510E527F#32, 0x9B05688C#32, 0x1F83D9AB#32, 0x5BE0CD19#32⟩

/-- SHA-512: the functions and constants of R188. -/
def sha512Params : Sha2 64 where
  bigS0 := (28, 34, 39)
  bigS1 := (14, 18, 41)
  smallS0 := (1, 8, 7)
  smallS1 := (19, 61, 6)
  consts := sha512K
  init := ⟨0x6A09E667F3BCC908#64, 0xBB67AE8584CAA73B#64, 0x3C6EF372FE94F82B#64, 0xA54FF53A5F1D36F1#64,
    0x510E527FADE682D1#64, 0x9B05688C2B3E6C1F#64, 0x1F83D9ABFB41BD6B#64, 0x5BE0CD19137E2179#64⟩

/-- `s1(W[t-2]) + W[t-7] + s0(W[t-15]) + W[t-16]` (R187, R189). -/
def sha2Next {w : Nat} (p : Sha2 w) (ws : List (BitVec w)) : BitVec w :=
  smallSigma p.smallS1 (back ws 2) + back ws 7 + smallSigma p.smallS0 (back ws 15) + back ws 16

/-- One round, from its constant and its schedule word (R187, R189). -/
def sha2Round {w : Nat} (p : Sha2 w) (r : Regs8 w) (kw : BitVec w × BitVec w) : Regs8 w :=
  let t1 := r.h + bigSigma p.bigS1 r.e + ch r.e r.f r.g + kw.1 + kw.2
  let t2 := bigSigma p.bigS0 r.a + maj r.a r.b r.c
  ⟨t1 + t2, r.a, r.b, r.c, r.d + t1, r.e, r.f, r.g⟩

/-- One block (R187, R189): a round for each constant, then the working variables are added to the hash words. -/
def sha2Block {w : Nat} (p : Sha2 w) (h : Regs8 w) (block : List (BitVec w)) : Regs8 w :=
  let r := (p.consts.zip (schedule (sha2Next p) (p.consts.length - 16) block)).foldl (sha2Round p) h
  ⟨h.a + r.a, h.b + r.b, h.c + r.c, h.d + r.d, h.e + r.e, h.f + r.f, h.g + r.g, h.h + r.h⟩

/-- The digest: the hash words, each big-endian in `n` bytes, first word first (R190). -/
def Regs8.bytes {w : Nat} (n : Nat) (r : Regs8 w) : List Byte :=
  bytesBe r.a n ++ bytesBe r.b n ++ bytesBe r.c n ++ bytesBe r.d n ++ bytesBe r.e n ++ bytesBe r.f n ++ bytesBe r.g n
    ++ bytesBe r.h n

/-- `SHA256(M)` (R187). -/
def sha256 (m : List Byte) : List Byte :=
  (((paddedBlocks 64 8 m).map parse32).foldl (sha2Block sha256Params) sha256Params.init).bytes 4

/-- `SHA512(M)` (R189). -/
def sha512 (m : List Byte) : List Byte :=
  (((paddedBlocks 128 16 m).map parse64).foldl (sha2Block sha512Params) sha512Params.init).bytes 8

end Sys2Proof.Machine
end

