-- ==== Sys2Proof/Machine/Hmac.lean ====
section
/-! DEFINITION. The HMAC unit: the message, the function and the effect of the HMAC command (spec/43_hmac.md R160 to
R163). The construction is the spec's R161, which it marks as general knowledge (log 8). -/

namespace Sys2Proof.Machine

/-- `HASH(alg)` (spec/44_sha.md R190). -/
def hashOf : Alg → List Byte → List Byte
  | .sha1 => sha1
  | .sha256 => sha256
  | .sha512 => sha512

/-- `K0`: a key longer than one block is hashed first, and the result is filled up with zeros to one block (R161). -/
def hmacKeyBlock (alg : Alg) (key : List Byte) : List Byte :=
  let k1 := if key.length > alg.blockLen then hashOf alg key else key
  k1 ++ zeros (alg.blockLen - k1.length)

/-- `HMAC(alg, K, m)` (R161). -/
def hmac (alg : Alg) (key m : List Byte) : List Byte :=
  let k0 := hmacKeyBlock alg key
  let inner := hashOf alg (k0.map (· ^^^ 0x36#8) ++ m)
  hashOf alg (k0.map (· ^^^ 0x5C#8) ++ inner)

/-- The message: the counter as an 8-byte big-endian integer (R160). -/
def counterBytes (ctr : BitVec 64) : List Byte := bytesBe ctr 8

/-- The secret, `KEY[0..KEY_LEN-1]` (R162). -/
def secret (b : Block) : List Byte := b.key.readBytes 0 b.keyLen

/-- The digest of the block's key and counter under its algorithm (R163). -/
def blockDigest (b : Block) : List Byte := hmac b.alg (secret b) (counterBytes b.ctr)

/-- Fill the digest buffer: the digest's `L` bytes, then zeros to byte 63 (R163). -/
def setDigest (alg : Alg) (d : List Byte) (b : Block) : Block :=
  { b with dg := Memory.writeBytes [] 0 (d.take alg.digestLen ++ zeros (dgSize - alg.digestLen)) }

/-- The effect of HMAC (R163). -/
def effectHmac (b : Block) : Block := setDigest b.alg (blockDigest b) b

end Sys2Proof.Machine
end

