-- ==== Sys2Proof/Machine/Render.lean ====
section
/-! DEFINITION. The decimal renderer and the effect of the RENDER command (spec/42_render.md R150, R151). -/

namespace Sys2Proof.Machine

/-- `g[i]` of `RENDER_FN(v, D)`, for `i < D` (R150). -/
def renderDigit (v d i : Nat) : Nat := v % 10 ^ d / 10 ^ (d - 1 - i) % 10

/-- `RENDER_FN(v, D)`: exactly `D` digits, the leftmost first (R150). -/
def renderFn (v d : Nat) : List Nat := (List.range d).map (renderDigit v d)

/-- The effect of RENDER (R151): all 16 positions are written, those from `D` on with 0, and `D` is latched. -/
def effectRender (b : Block) : Block :=
  { b with
    dig := Vector.ofFn fun i => BitVec.ofNat 4 ((renderFn b.value.toNat b.digits.toNat).getD i.val 0)
    pwdLen := b.digits }

end Sys2Proof.Machine
end

