-- ==== Sys2Proof/Machine/Truncate.lean ====
section
/-! DEFINITION. The integer extractor: dynamic truncation and the effect of the TRUNC command (spec/41_truncate.md R140,
R141). -/

namespace Sys2Proof.Machine

/-- `DT(d)` for a digest of at least 20 bytes (R140): the offset is the low nibble of the last byte, and the value the
four bytes from there on, big-endian, with the top bit masked off. -/
def dynamicTruncation (d : List Byte) : BitVec 4 × BitVec 31 :=
  let o := (byteAt d (d.length - 1)).extractLsb' 0 4
  (o, (be32 d o.toNat).extractLsb' 0 31)

/-- The digest, `DG[0..L-1]` (R141). -/
def digestBytes (b : Block) : List Byte := b.dg.readBytes 0 b.alg.digestLen

/-- The effect of TRUNC (R141). -/
def effectTrunc (b : Block) : Block :=
  { b with
    offset := (dynamicTruncation (digestBytes b)).1
    value := (dynamicTruncation (digestBytes b)).2 }

end Sys2Proof.Machine
end

