-- ==== Sys2Proof/Machine/Command.lean ====
section
/-! DEFINITION. The commands (spec/40_command_sequencing.md): their issue by a write of `CMD`, and the meaning of each of
the seven command rows, which is its Complete (R124; log 5). -/

namespace Sys2Proof.Machine

/-- The commands with an issue check, `KEY_LEN != 0` (spec/30_encoding.md R93). -/
def Opc.needsKey : Opc → Bool
  | .hmac | .otp => true
  | .nop | .keyclr | .trunc | .render | .zeroize => false

/-- The write of `CMD` while idle (spec/45_register_access.md R215): an illegal word is rejected (R121), then a command
that needs a key without one (R123); else the command is accepted (R122). -/
def issue (w : Word) (b : Block) : Block :=
  match Opc.ofWord w with
  | none => raiseError .opcode b
  | some op => if Opc.needsKey op && b.keyLen == 0 then raiseError .keyEmpty b else accept op b

/-- The effect of KEYCLR (R126): every key byte is cleared. -/
def effectKeyclr (b : Block) : Block := { b with key := [], keyLen := 0 }

/-- The effect of ZEROIZE (R127): key, counter and every result are cleared; `CFG` and the errors are kept. -/
def effectZeroize (b : Block) : Block :=
  { b with
    key := []
    keyLen := 0
    ctr := 0
    dg := []
    value := 0
    offset := 0
    dig := Vector.replicate 16 0
    pwdLen := 0 }

/-- The effect of OTP: the three stages in order, each reading what the one before wrote (spec/43_hmac.md R166). -/
def effectOtp (b : Block) : Block := effectRender (effectTrunc (effectHmac b))

/-- NOP: nothing but the handshake (R125). -/
def execNop (s : State) : Host.Outcome State Fault Refusal := complete (fun b => b) s

/-- KEYCLR (R126). -/
def execKeyclr (s : State) : Host.Outcome State Fault Refusal := complete effectKeyclr s

/-- HMAC (spec/43_hmac.md R163). -/
def execHmac (s : State) : Host.Outcome State Fault Refusal := complete effectHmac s

/-- TRUNC (spec/41_truncate.md R141). -/
def execTrunc (s : State) : Host.Outcome State Fault Refusal := complete effectTrunc s

/-- RENDER (spec/42_render.md R151). -/
def execRender (s : State) : Host.Outcome State Fault Refusal := complete effectRender s

/-- OTP (spec/43_hmac.md R166). -/
def execOtp (s : State) : Host.Outcome State Fault Refusal := complete effectOtp s

/-- ZEROIZE (R127). -/
def execZeroize (s : State) : Host.Outcome State Fault Refusal := complete effectZeroize s

end Sys2Proof.Machine
end

