-- ==== Sys2Proof/Machine/Write.lean ====
section
/-! DEFINITION. The meaning of every bus write (spec/45_register_access.md R211): `STATUS` is written in every state, a
register outside `WR_SET` ignores its write, a register of `WR_SET` takes it only while idle. -/

namespace Sys2Proof.Machine

/-- The write of `CFG` while idle: an illegal word is rejected whole, a legal one stored (R213, spec/10_state.md R30). -/
def writeCfg (data : Word) (b : Block) : Block :=
  match cfgOfWord data with
  | none => raiseError .cfg b
  | some (a, d, e) => { b with alg := a, digits := d, intEn := e }

/-- The write of `KEY_PUSH` while idle: the byte `data[7:0]` is appended, or discarded if the buffer is full (R217). -/
def pushKey (data : Word) (b : Block) : Block :=
  if b.keyLen = Config.keyMax then raiseError .keyOvf b
  else { b with key := b.key.write b.keyLen (data.extractLsb' 0 8), keyLen := b.keyLen + 1 }

/-- WR.ID (R234). -/
def execWrId (_data : Word) (s : State) : Host.Outcome State Fault Refusal := ignoredWrite s

/-- WR.CFG (R213). -/
def execWrCfg (data : Word) (s : State) : Host.Outcome State Fault Refusal := hostWrite (writeCfg data) s

/-- WR.CMD (R215), then format CMD: the command word is decoded in the step that writes it. -/
def execWrCmd (data : Word) (s : State) : Host.Outcome State Fault Refusal := hostWrite (issue data) s

/-- WR.STATUS (R219), in idle and busy state alike. -/
def execWrStatus (data : Word) (s : State) : Host.Outcome State Fault Refusal := .next (s.onBlock (ackStatus data))

/-- WR.CTR_HI (R221). -/
def execWrCtrHi (data : Word) (s : State) : Host.Outcome State Fault Refusal := hostWrite (setCtrHi data) s

/-- WR.CTR_LO (R223). -/
def execWrCtrLo (data : Word) (s : State) : Host.Outcome State Fault Refusal := hostWrite (setCtrLo data) s

/-- WR.KEY_PUSH (R217). -/
def execWrKeyPush (data : Word) (s : State) : Host.Outcome State Fault Refusal := hostWrite (pushKey data) s

/-- WR.KEY_LEN (R234). -/
def execWrKeyLen (_data : Word) (s : State) : Host.Outcome State Fault Refusal := ignoredWrite s

/-- WR.VALUE (R226). -/
def execWrValue (data : Word) (s : State) : Host.Outcome State Fault Refusal := hostWrite (setValue data) s

/-- WR.RSTAT (R234). -/
def execWrRstat (_data : Word) (s : State) : Host.Outcome State Fault Refusal := ignoredWrite s

/-- WR.PWD_BCD0 (R234). -/
def execWrPwdBcd0 (_data : Word) (s : State) : Host.Outcome State Fault Refusal := ignoredWrite s

/-- WR.PWD_BCD1 (R234). -/
def execWrPwdBcd1 (_data : Word) (s : State) : Host.Outcome State Fault Refusal := ignoredWrite s

/-- WR.PWD_ASC j (R234). -/
def execWrPwdAsc (_j : BitVec 2) (_data : Word) (s : State) : Host.Outcome State Fault Refusal := ignoredWrite s

/-- WR.DIGEST k (R232). -/
def execWrDigest (k : BitVec 4) (data : Word) (s : State) : Host.Outcome State Fault Refusal :=
  hostWrite (setDigestWord k data) s

/-- WR.RSVD (R235). -/
def execWrRsvd (_widx : BitVec 6) (_data : Word) (s : State) : Host.Outcome State Fault Refusal := ignoredWrite s

end Sys2Proof.Machine
end

