-- ==== Sys2Proof/Machine/Dispatch.lean ====
section
/-! DEFINITION. The dispatch: one arm per row of the opcode table, each one call of its meaning. -/

namespace Sys2Proof.Machine

def exec (i : Instr) (s : State) : Host.Outcome State Fault Refusal :=
  match i with
  | .nop => Sys2Proof.Machine.execNop s
  | .keyclr => Sys2Proof.Machine.execKeyclr s
  | .hmac => Sys2Proof.Machine.execHmac s
  | .trunc => Sys2Proof.Machine.execTrunc s
  | .render => Sys2Proof.Machine.execRender s
  | .otp => Sys2Proof.Machine.execOtp s
  | .zeroize => Sys2Proof.Machine.execZeroize s
  | .rdId => Sys2Proof.Machine.execRdId s
  | .rdCfg => Sys2Proof.Machine.execRdCfg s
  | .rdCmd => Sys2Proof.Machine.execRdCmd s
  | .rdStatus => Sys2Proof.Machine.execRdStatus s
  | .rdCtrHi => Sys2Proof.Machine.execRdCtrHi s
  | .rdCtrLo => Sys2Proof.Machine.execRdCtrLo s
  | .rdKeyPush => Sys2Proof.Machine.execRdKeyPush s
  | .rdKeyLen => Sys2Proof.Machine.execRdKeyLen s
  | .rdValue => Sys2Proof.Machine.execRdValue s
  | .rdRstat => Sys2Proof.Machine.execRdRstat s
  | .rdPwdBcd0 => Sys2Proof.Machine.execRdPwdBcd0 s
  | .rdPwdBcd1 => Sys2Proof.Machine.execRdPwdBcd1 s
  | .rdPwdAsc j => Sys2Proof.Machine.execRdPwdAsc j s
  | .rdDigest k => Sys2Proof.Machine.execRdDigest k s
  | .rdRsvd widx => Sys2Proof.Machine.execRdRsvd widx s
  | .wrId data => Sys2Proof.Machine.execWrId data s
  | .wrCfg data => Sys2Proof.Machine.execWrCfg data s
  | .wrCmd data => Sys2Proof.Machine.execWrCmd data s
  | .wrStatus data => Sys2Proof.Machine.execWrStatus data s
  | .wrCtrHi data => Sys2Proof.Machine.execWrCtrHi data s
  | .wrCtrLo data => Sys2Proof.Machine.execWrCtrLo data s
  | .wrKeyPush data => Sys2Proof.Machine.execWrKeyPush data s
  | .wrKeyLen data => Sys2Proof.Machine.execWrKeyLen data s
  | .wrValue data => Sys2Proof.Machine.execWrValue data s
  | .wrRstat data => Sys2Proof.Machine.execWrRstat data s
  | .wrPwdBcd0 data => Sys2Proof.Machine.execWrPwdBcd0 data s
  | .wrPwdBcd1 data => Sys2Proof.Machine.execWrPwdBcd1 data s
  | .wrPwdAsc j data => Sys2Proof.Machine.execWrPwdAsc j data s
  | .wrDigest k data => Sys2Proof.Machine.execWrDigest k data s
  | .wrRsvd widx data => Sys2Proof.Machine.execWrRsvd widx data s

end Sys2Proof.Machine
end

