-- ==== Sys2Proof/Machine/Turns.lean ====
section
/-! DEFINITION. Fetching: which agent takes the next turn, and which instruction that turn runs (spec/00_scope.md R12;
logs 1 to 3, 5, 9). The block fetches nothing itself (spec/00_scope.md R11): a host turn brings its header, and the
sequencer runs the opcode that acceptance latched. -/

namespace Sys2Proof.Machine

/-- What a turn comes to. -/
inductive Fetched where
  /-- An instruction to run, and the state with the turn taken off. -/
  | run (i : Instr) (s : State)
  /-- No step of the block: the agent's step is not enabled. -/
  | idle (s : State)
  /-- The reset step. -/
  | reset (s : State)
  /-- A turn that no port can carry. -/
  | refuse (r : Refusal)
  deriving DecidableEq, Repr

/-- The next turn, taken off the list. When none is left the sequencer is offered its step, so that Complete is taken in
the end: weak fairness (spec/40_command_sequencing.md R124; log 2). -/
def nextTurn (s : State) : Turn × State :=
  match s.turns with
  | [] => (.sequencer, s)
  | t :: ts => (t, { s with turns := ts })

/-- A host turn runs the instruction its header decodes to (spec/30_encoding.md R97). -/
def fetchHost (hdr : Header) (data : Word) (s : State) : Fetched :=
  match decode (.bus hdr data) with
  | .ok i => .run i s
  | .error _ => .refuse .noSuchHeader

/-- A sequencer turn runs the latched command exactly when `BUSY = 1` (spec/40_command_sequencing.md R124). -/
def fetchSequencer (s : State) : Fetched :=
  if s.block.busy then .run s.block.opl.toInstr s else .idle s

/-- The next turn and what it comes to. -/
def fetch (s : State) : Fetched :=
  match nextTurn s with
  | (.host hdr data, s') => fetchHost hdr data s'
  | (.sequencer, s') => fetchSequencer s'
  | (.reset, s') => .reset s'

/-- The state whose next turn runs an encoded instruction (log 5, log 12): a transaction is the host's next turn; a
legal command word is latched as acceptance latches it (spec/40_command_sequencing.md R122) and the sequencer has the
next turn; an illegal command word, which can reach the block only as the data of a write of `CMD`, is that write. -/
def placeEncoding (e : Option Encoding) (s : State) : State :=
  match e with
  | some (.bus hdr data) => { s with turns := .host hdr data :: s.turns }
  | some (.cmd w) =>
    match Opc.ofWord w with
    | some op => { s with block := accept op s.block, turns := .sequencer :: s.turns }
    | none => { s with turns := .host 0x108#9 w :: s.turns }
  | none => { s with turns := .host 0x001#9 0 :: s.turns }

end Sys2Proof.Machine
end

