-- ==== Sys2Proof/Machine/Step.lean ====
section
/-! DEFINITION. One step: the next turn of the next agent, as one atomic step (spec/00_scope.md R8, R12,
spec/20_memory.md R70). -/

namespace Sys2Proof.Machine

/-- One step of the machine. -/
def step (s : State) : Host.Outcome State Fault Refusal :=
  match fetch s with
  | .run i s' => exec i s'
  | .idle s' => .next s'
  | .reset s' => .next (resetBlock s')
  | .refuse r => .refused r

/-- `s` with the instruction that `nbits` bits of `w` are placed where `step` takes its next one (log 5, log 12). -/
def State.withFetchWord (s : State) (nbits w : Nat) : State := placeEncoding (Encoding.ofTableWord nbits w) s

end Sys2Proof.Machine
end

