-- ==== Sys2Proof/Machine/Driver.lean ====
section
/-! DEFINITION. The host agent's side: the pseudo-instructions of the host notation (spec/30_encoding.md R98 to R100),
the driver sequences with what the host does with the words
it reads (spec/48_host_software.md R253, R255) and the functions of the surrounding software that the spec
settles (R250 to R252, R256, R258). None of it is hardware (spec/00_scope.md R4) and no definition of the machine uses
it. -/

namespace Sys2Proof.Machine

/-! ### Host notation (spec/30_encoding.md R98, R99) -/

/-- `WR <off>, <data>`. -/
def turnWr (off : Nat) (data : Word) : Turn := .host (BitVec.ofNat 9 (0x100 + off)) data

/-- `RD <off>`. -/
def turnRd (off : Nat) : Turn := .host (BitVec.ofNat 9 off) 0

/-- `CMD <mnemonic>`. -/
def seqCmd (op : Opc) : List Turn := [turnWr 0x08 (Opc.word op)]

/-- `SETCFG <alg>, <digits>, <ie>`. -/
def seqSetCfg (alg : Alg) (digits : BitVec 4) (ie : Bool) : List Turn :=
  [turnWr 0x04 (bitWord ie <<< 8 ||| digits.zeroExtend 32 <<< 4 ||| alg.code.zeroExtend 32)]

/-- `SETCTR <v64>`. -/
def seqSetCtr (v : BitVec 64) : List Turn := [turnWr 0x10 (v.extractLsb' 32 32), turnWr 0x14 (v.extractLsb' 0 32)]

/-- `KEY <bytes>`: one write per byte, in order. -/
def seqKey (bytes : List Byte) : List Turn := bytes.map fun b => turnWr 0x18 (b.zeroExtend 32)

/-- `CLRST`. -/
def seqClrst : List Turn := [turnWr 0x0C 0x00001F02#32]

/-- `LDDIGEST <bytes>`, a multiple of 4 bytes and at most 64: one write per group of four. -/
def seqLdDigest (bytes : List Byte) : List Turn :=
  (List.range (bytes.length / 4)).map fun k => turnWr (0x40 + 4 * k) (be32 bytes (4 * k))

/-- `WAIT` (R100) in a run where Complete falls after `polls` reads that still showed `BUSY = 1`: those reads, the
sequencer's turn, and the read that ends the loop. -/
def seqWait (polls : Nat) : List Turn := List.replicate polls (turnRd 0x0C) ++ [.sequencer, turnRd 0x0C]

/-! ### The host's engine (spec/48_host_software.md R250) -/

/-- What the software engine is constructed with. -/
structure Engine where
  secret : List Byte
  alg : Alg
  interval : Nat
  referenceTimestamp : Nat
  digits : BitVec 4
  deriving DecidableEq, Repr

/-- The errors that the host reports: those of the source and of the block's flags (R264, spec/60_exceptions.md R281), and
two cases the spec leaves open, in which the model stops (log 15). -/
inductive HostError where
  /-- A bad digit count, interval or window (R250, R258, R264). -/
  | invalidConfiguration
  /-- A timestamp before the reference (R251). -/
  | invalidTime
  /-- An empty secret (R254, R264; the flag `ERR_KEY_EMPTY`). -/
  | secretEmpty
  /-- A secret longer than the key buffer (R254, R255; the flag `ERR_KEY_OVF`). -/
  | secretTooLong
  /-- The flag `ERR_OPCODE`, which stands for no error of the source (R281). -/
  | illegalCommand
  /-- The flag `ERR_BUSY`, which stands for no error of the source (R281). -/
  | blockBusy
  /-- A counter that does not fit 64 bits, out of the spec's scope (R252, U3). -/
  | counterTooLarge
  /-- A window that reaches below counter 0, which the spec leaves open (N14, U11). -/
  | counterBelowZero
  deriving DecidableEq, Repr

/-- The checks made at construction (R250, R254, R264). DESIGN CHOICE (log 15): the order of the checks, and that an
empty secret is rejected where the source would also let an implementation warn. -/
def Engine.check (e : Engine) : Except HostError Unit :=
  if e.interval = 0 ∨ e.digits.toNat < Config.digitsMin then .error .invalidConfiguration
  else if e.secret = [] then .error .secretEmpty
  else if Config.keyMax < e.secret.length then .error .secretTooLong
  else .ok ()

/-- `counter(at)`: the number of whole intervals since the reference (R251, R252). -/
def Engine.counter (e : Engine) (time : Nat) : Except HostError (BitVec 64) :=
  if time < e.referenceTimestamp then .error .invalidTime
  else if 2 ^ 64 ≤ (time - e.referenceTimestamp) / e.interval then .error .counterTooLarge
  else .ok (BitVec.ofNat 64 ((time - e.referenceTimestamp) / e.interval))

/-- The password of a counter: HMAC, extraction and rendering in turn (spec/43_hmac.md R167). -/
def Engine.passwordOf (e : Engine) (ctr : BitVec 64) : List Nat :=
  renderFn (dynamicTruncation (hmac e.alg e.secret (counterBytes ctr))).2.toNat e.digits.toNat

/-- `password(at)` (R253). -/
def Engine.password (e : Engine) (time : Nat) : Except HostError (List Nat) :=
  match e.check, e.counter time with
  | .error x, _ => .error x
  | .ok _, .error x => .error x
  | .ok _, .ok c => .ok (e.passwordOf c)

/-- `verify(candidate, at, window)`: some counter of the window has the candidate as its password (R256, R258). DESIGN
CHOICE (log 15): the window has no cap, however large (R258 takes no decision, spec/93_implementation_defined.md U5); a
window that reaches below counter 0 is refused (N14); the window is checked before the engine and the time. -/
def Engine.verify (e : Engine) (candidate : List Nat) (time : Nat) (window : Int) : Except HostError Bool :=
  if window < 0 then .error .invalidConfiguration
  else match e.check, e.counter time with
  | .error x, _ => .error x
  | .ok _, .error x => .error x
  | .ok _, .ok c =>
    if c.toNat < window.toNat then .error .counterBelowZero
    else .ok ((List.range (window.toNat + 1)).any fun k => e.passwordOf (c - BitVec.ofNat 64 k) == candidate)

/-! ### What the host reads from a status word, and the passwords it reads from the views -/

/-- The error an error flag stands for (R255, R264, spec/60_exceptions.md R281). -/
def HostError.ofFlag : ErrorFlag → HostError
  | .cfg => .invalidConfiguration
  | .keyEmpty => .secretEmpty
  | .keyOvf => .secretTooLong
  | .opcode => .illegalCommand
  | .busy => .blockBusy

/-- The errors among the given flags that a status word shows. -/
def statusErrors (flags : List ErrorFlag) (status : Word) : List HostError :=
  (flags.filter fun f => status.getLsbD f.code).map HostError.ofFlag

/-- The errors of `s[12:8]`, all five flags (R253): the list is empty exactly when `s[12:8] = 0`. -/
def passwordErrors (status : Word) : List HostError := statusErrors [.cfg, .keyEmpty, .keyOvf, .opcode, .busy] status

/-- The errors that construction tests for, `s[8]` and `s[10]` (R255). -/
def constructErrors (status : Word) : List HostError := statusErrors [.cfg, .keyOvf] status

/-- The view the host reads the password from (R253: `PWD_ASC0..3`, or `PWD_BCD0..1`). -/
inductive View where
  | ascii | bcd
  deriving DecidableEq, Repr

/-- The offsets of a view's words, in order. -/
def View.offsets : View → List Nat
  | .ascii => [0x30, 0x34, 0x38, 0x3C]
  | .bcd => [0x28, 0x2C]

/-- The password's length in the word read from `RSTAT`, bits 11:8 (spec/10_state.md R36). -/
def lengthOfRstat (rstat : Word) : Nat := (rstat.extractLsb' 8 4).toNat

/-- The digit at a position in the words of a view: the character of `PWD_ASCj` less 0x30, or the nibble of `PWD_BCDj`, the
first in the top bits (spec/10_state.md R39, R40). -/
def View.digitAt (v : View) (words : List Word) (i : Nat) : Nat :=
  match v with
  | .ascii => ((words.getD (i / 4) 0).extractLsb' (8 * (3 - i % 4)) 8).toNat - 0x30
  | .bcd => ((words.getD (i / 8) 0).extractLsb' (4 * (7 - i % 8)) 4).toNat

/-- The password in the words read: as many digits as `RSTAT` says, the leftmost first (R253). -/
def View.password (v : View) (rstat : Word) (words : List Word) : List Nat :=
  (List.range (lengthOfRstat rstat)).map (v.digitAt words)

/-! ### The driver sequences, as turns -/

/-- Construction on the block (R255), the wait for KEYCLR taking `polls` reads. -/
def Engine.constructTurns (e : Engine) (ie : Bool) (polls : Nat) : List Turn :=
  seqClrst ++ seqCmd .keyclr ++ seqWait polls ++ seqKey e.secret ++ seqSetCfg e.alg e.digits ie ++ [turnRd 0x0C]

/-- One password on the block (R253), by the status word that the host reads after the wait: set the counter, clear the
status, run OTP, wait, read the status; then, if it shows no error, the length and the view. -/
def passwordTurns (ctr : BitVec 64) (polls : Nat) (view : View) (status : Word) : List Turn :=
  seqSetCtr ctr ++ seqClrst ++ seqCmd .otp ++ seqWait polls ++ [turnRd 0x0C]
    ++ if passwordErrors status = [] then turnRd 0x24 :: view.offsets.map turnRd else []

/-- Discarding an engine's block (R255). -/
def discardTurns : List Turn := seqCmd .zeroize

/-- The host's rule from construction until it discards the engine (R255): a turn that writes neither `CFG` nor
`KEY_PUSH`. The other agents' turns are no writes of the host. -/
def Turn.obeysEngineRule : Turn → Bool
  | .host hdr _ => hdr != 0x104#9 && hdr != 0x118#9
  | .sequencer => true
  | .reset => true

/-! ### The driver sequences, run on the machine

The host acts on the words it reads, so these are functions of the machine. They have the port alone: only the host's
turns, and the sequencer's inside a wait, come between. `none` is a step that has no next state. -/

/-- One turn on the machine; the turns still to come are kept. -/
def runTurn (t : Turn) (s : State) : Option State :=
  match step { s with turns := t :: s.turns } with
  | .next s' => some s'
  | .fault _ => none
  | .refused _ => none

/-- Turns in order. -/
def runTurns : List Turn → State → Option State
  | [], s => some s
  | t :: ts, s => (runTurn t s).bind (runTurns ts)

/-- `RD <off>`: the word, and the state after. -/
def runRead (off : Nat) (s : State) : Option (Word × State) := (runTurn (turnRd off) s).map fun s' => (s'.rdata, s')

/-- Reads in order. -/
def runReads : List Nat → State → Option (List Word × State)
  | [], s => some ([], s)
  | off :: offs, s =>
    (runRead off s).bind fun (w, s') => (runReads offs s').map fun (ws, s'') => (w :: ws, s'')

/-- `WAIT` (R100): read `STATUS` until `s[0] = 0`. The sequencer has its turn after at most `polls` reads that showed 1, and
one more read ends the loop. -/
def runWait : Nat → State → Option State
  | 0, s => runTurns [.sequencer, turnRd 0x0C] s
  | polls + 1, s =>
    (runRead 0x0C s).bind fun (status, s') => if status.getLsbD 0 then runWait polls s' else some s'

/-- Construction on the block (R255): the errors that the status word shows, if any, and the state after. -/
def Engine.constructOnBlock (e : Engine) (ie : Bool) (polls : Nat) (s : State) :
    Option (Except (List HostError) Unit × State) :=
  (runTurns (seqClrst ++ seqCmd .keyclr) s).bind fun s₁ =>
  (runWait polls s₁).bind fun s₂ =>
  (runTurns (seqKey e.secret ++ seqSetCfg e.alg e.digits ie) s₂).bind fun s₃ =>
  (runRead 0x0C s₃).map fun (status, s₄) =>
    (if constructErrors status = [] then .ok () else .error (constructErrors status), s₄)

/-- One password of a counter on the block (R253): the errors that the status word shows, and then nothing more is read;
or the password, from the length in `RSTAT` and the words of the view. -/
def passwordOnBlock (ctr : BitVec 64) (view : View) (polls : Nat) (s : State) :
    Option (Except (List HostError) (List Nat) × State) :=
  (runTurns (seqSetCtr ctr ++ seqClrst ++ seqCmd .otp) s).bind fun s₁ =>
  (runWait polls s₁).bind fun s₂ =>
  (runRead 0x0C s₂).bind fun (status, s₃) =>
    if passwordErrors status = [] then
      (runRead 0x24 s₃).bind fun (rstat, s₄) =>
      (runReads view.offsets s₄).map fun (words, s₅) => (.ok (view.password rstat words), s₅)
    else some (.error (passwordErrors status), s₃)

/-- `password(at)` on the block (R253): the counter of the time, then its password; an invalid time reaches no port. -/
def Engine.passwordOnBlock (e : Engine) (time : Nat) (view : View) (polls : Nat) (s : State) :
    Option (Except (List HostError) (List Nat) × State) :=
  match e.counter time with
  | .error x => some (.error [x], s)
  | .ok ctr => Sys2Proof.Machine.passwordOnBlock ctr view polls s

end Sys2Proof.Machine
end

