-- ==== Sys2Proof/Safety.lean ====
section
/-! DEFINITION. What counts as a safe state and a safe run, and the words the claims are written in: the invariants of
spec/10_state.md R45 with the canonical form of the two byte buffers, turns that the port can carry, the causes of the
errors, and states that agree but for one kind of state. -/

namespace Sys2Proof.Machine

/-- The invariants I1 to I11 of spec/10_state.md R45, and the canonical form of the byte buffers (log 10). -/
structure Block.Inv (b : Block) : Prop where
  /-- I1 `CFG.ALG <= 2` -/
  alg : (Alg.code b.alg).toNat ≤ 2
  /-- I2 `6 <= CFG.DIGITS <= 15` -/
  digits : 6 ≤ b.digits.toNat ∧ b.digits.toNat ≤ 15
  /-- I3 `KEY_LEN <= KEY_MAX` -/
  keyLen : b.keyLen ≤ Config.keyMax
  /-- I4 `KEY[i] = 0` for all `i >= KEY_LEN` -/
  keyTail : ∀ i, b.keyLen ≤ i → b.key.read i = 0
  /-- I5 `VALUE < 2^31` -/
  value : b.value.toNat < 2 ^ 31
  /-- I6 `OFFSET <= 15` -/
  offset : b.offset.toNat ≤ 15
  /-- I7 `DIG[i] <= 9` for all i -/
  dig : ∀ i, i < 16 → (digit b i).toNat ≤ 9
  /-- I8 `PWD_LEN = 0` or `6 <= PWD_LEN <= 15` -/
  pwdLen : b.pwdLen.toNat = 0 ∨ (6 ≤ b.pwdLen.toNat ∧ b.pwdLen.toNat ≤ 15)
  /-- I9 `DIG[i] = 0` for all `i >= PWD_LEN` -/
  digTail : ∀ i, i < 16 → b.pwdLen.toNat ≤ i → digit b i = 0
  /-- I10 `BUSY = 1` implies `DONE = 0` -/
  busyNotDone : b.busy = true → b.done = false
  /-- I11 `OPL <= 6` -/
  opl : (Opc.code b.opl).toNat ≤ 6
  /-- The key buffer is in canonical form. -/
  keyWf : b.key.wf Config.keyMax = true
  /-- The digest buffer is in canonical form. -/
  dgWf : b.dg.wf dgSize = true

/-- Every component of the block has its value of the table of spec/10_state.md R43. -/
def Block.AtReset (b : Block) : Prop :=
  Alg.code b.alg = 0 ∧ b.digits = 6 ∧ b.intEn = false ∧ b.ctr = 0 ∧ (∀ i, b.key.read i = 0) ∧ b.keyLen = 0 ∧
  (∀ i, b.dg.read i = 0) ∧ b.value = 0 ∧ b.offset = 0 ∧ (∀ i, digit b i = 0) ∧ b.pwdLen = 0 ∧ b.busy = false ∧
  b.done = false ∧ (∀ e, errorBit b e = false) ∧ Opc.code b.opl = 0

/-- A command in progress that needs a key has one: its issue check passed (spec/40_command_sequencing.md R123) and the
key cannot change before Complete (spec/20_memory.md R74). -/
def Block.KeyedCommand (b : Block) : Prop := b.busy = true → Opc.needsKey b.opl = true → 0 < b.keyLen

/-- A turn the word-indexed port can carry (spec/20_memory.md R60). -/
def Turn.carried : Turn → Bool
  | .host hdr _ => headerExists hdr
  | .sequencer => true
  | .reset => true

/-- Every turn still to come can be carried. -/
def State.carried (s : State) : Bool := s.turns.all Turn.carried

/-- A safe state. -/
def State.Safe (s : State) : Prop := s.block.Inv ∧ s.block.KeyedCommand ∧ s.carried = true

/-- A safe run of `n` steps: it reaches a safe state. -/
def SafeRun (n : Nat) (s : State) : Prop := ∃ s', Sys2Proof.core.run n s = .next s' ∧ State.Safe s'

/-! ### Words of the claims -/

/-- An instruction that is a read: it completes in every state, changes nothing but the word the host receives, and that
word has the given value. -/
def ReadsAs (i : Instr) (f : Block → Nat) : Prop :=
  ∀ s : State, ∃ w : Word, exec i s = .next { s with rdata := w } ∧ w.toNat = f s.block

/-- The byte offset of a header, `hdr[7:0]` (spec/30_encoding.md R97). -/
def byteOffset (hdr : Header) : Nat := hdr.toNat % 256

/-- `WR_SET`, the offsets whose writes are dropped while busy (spec/45_register_access.md R211). -/
def inWriteSet (off : Nat) : Prop :=
  off = 0x04 ∨ off = 0x08 ∨ off = 0x10 ∨ off = 0x14 ∨ off = 0x18 ∨ off = 0x20 ∨ (0x40 ≤ off ∧ off ≤ 0x7C)

/-- The cause table of spec/60_exceptions.md R281: a write of `data` by the header `hdr` raises the error. -/
def ErrorCause (e : ErrorFlag) (b : Block) (hdr : Header) (data : Word) : Prop :=
  match e with
  | .cfg => b.busy = false ∧ hdr = 0x104#9 ∧ (data.toNat / 16 % 16 < 6 ∨ data.toNat % 4 = 3)
  | .keyEmpty => b.busy = false ∧ hdr = 0x108#9 ∧ (data = 2#32 ∨ data = 5#32) ∧ b.keyLen = 0
  | .keyOvf => b.busy = false ∧ hdr = 0x118#9 ∧ b.keyLen = Config.keyMax
  | .opcode => b.busy = false ∧ hdr = 0x108#9 ∧ (data.toNat / 16 ≠ 0 ∨ 7 ≤ data.toNat % 16)
  | .busy => b.busy = true ∧ Header.we hdr = true ∧ headerExists hdr = true ∧ inWriteSet (byteOffset hdr)

/-- `L` of the three algorithms, in numbers (spec/00_scope.md R5, spec/41_truncate.md R141, spec/44_sha.md R190). -/
def DigestLengths : Prop := Alg.digestLen .sha1 = 20 ∧ Alg.digestLen .sha256 = 32 ∧ Alg.digestLen .sha512 = 64

/-- `B` of the three algorithms, in numbers (spec/00_scope.md R5, spec/44_sha.md R190). -/
def BlockLengths : Prop := Alg.blockLen .sha1 = 64 ∧ Alg.blockLen .sha256 = 64 ∧ Alg.blockLen .sha512 = 128

/-- The block is idle and holds what an engine was constructed with (spec/48_host_software.md R250). -/
def Block.Holds (e : Engine) (b : Block) : Prop :=
  b.busy = false ∧ b.alg = e.alg ∧ b.digits = e.digits ∧ b.keyLen = e.secret.length ∧
  (List.range b.keyLen).map b.key.read = e.secret

/-- Two blocks that agree on everything but the five error flags. -/
def SameButErrors (b b' : Block) : Prop :=
  { b with
    errCfg := b'.errCfg, errKeyEmpty := b'.errKeyEmpty, errKeyOvf := b'.errKeyOvf, errOpcode := b'.errOpcode,
    errBusy := b'.errBusy } = b'

/-- Two blocks that agree on everything but the bytes of the key. -/
def SameButKey (b b' : Block) : Prop := { b with key := b'.key } = b'

/-- The valid digits of the digit file, the leftmost first (spec/10_state.md R38). -/
def passwordDigits (b : Block) : List Nat := (List.range b.pwdLen.toNat).map fun i => (digit b i).toNat

/-- The number a sequence of decimal digits stands for, the most significant first (spec/42_render.md R150). -/
def numericValue (ds : List Nat) : Nat := ds.foldl (fun acc d => 10 * acc + d) 0

/-- Rendering by repeated division by ten (spec/42_render.md R153): `n` digits of `t`, the last one `t mod 10`. -/
def digitsByDivision : Nat → Nat → List Nat
  | 0, _ => []
  | n + 1, t => digitsByDivision n (t / 10) ++ [t % 10]

/-- The four bytes of a buffer from `i` on as a big-endian number (spec/00_scope.md R7). -/
def bigEndian4 (m : Memory) (i : Nat) : Nat :=
  (m.read i).toNat * 2 ^ 24 + (m.read (i + 1)).toNat * 2 ^ 16 + (m.read (i + 2)).toNat * 2 ^ 8 + (m.read (i + 3)).toNat

/-- The bytes of the message, written out from spec/43_hmac.md R160. -/
def messageOf (ctr : BitVec 64) : List Byte :=
  [ctr.extractLsb' 56 8, ctr.extractLsb' 48 8, ctr.extractLsb' 40 8, ctr.extractLsb' 32 8, ctr.extractLsb' 24 8,
    ctr.extractLsb' 16 8, ctr.extractLsb' 8 8, ctr.extractLsb' 0 8]

/-- The digest that HMAC and OTP compute from a state (spec/43_hmac.md R163). -/
def digestOf (b : Block) : List Byte :=
  hmac b.alg ((List.range b.keyLen).map b.key.read) (messageOf b.ctr)

end Sys2Proof.Machine
end

