-- ==== Sys2Proof/Certificates/Slice0/Obligations.lean ====
section
/-! DEFINITION. The statements about the model, each from a numbered rule of spec/ or derived from its sections. -/

open Sys2Proof Sys2Proof.Machine

/-! ### Encodings -/

/-- Decoding the encoding of a well-formed instruction gives it back: no operand bit of any of the 37 rows is dropped
(spec/30_encoding.md sections 2 and 5). -/
def Obligations.DecodeOfEncodeGivesTheInstruction : Prop :=
  ∀ i : Instr, i.wellFormed = true → decode (encode i) = .ok i

/-- What the decoder accepts is the encoding of what it answers, which is well formed: so no two encodings share an
instruction but for the data bits of a read, which do not exist (spec/30_encoding.md section 5). -/
def Obligations.EncodeOfDecodeGivesTheEncoding : Prop :=
  ∀ (e : Encoding) (i : Instr), decode e = .ok i → i.wellFormed = true ∧ encode i = e.canonical

/-- The 30 bus rows partition the headers whose low two bits are 0: each is selected by exactly one row, and no other
header by any (spec/30_encoding.md section 5). -/
def Obligations.BusRowsPartitionTheAlignedHeaders : Prop :=
  busTable.length = 30 ∧
  ∀ hdr : Header, (busTable.filter (BusRow.selects · hdr)).length = if hdr.toNat % 4 = 0 then 1 else 0

/-- Of all 32-bit words exactly the seven below 7 are legal command words (spec/30_encoding.md section 4). -/
def Obligations.SevenCommandWordsAreLegal : Prop :=
  ∀ w : Word, (∃ i, decodeCmd w = .ok i) ↔ w.toNat < 7

/-- Words written out from the tables of R92 and R97, one or two of each kind of row, decode to the instructions they stand
for; how a table word numbers its bits (32 bits a command word, the header in bits 8:0, a write's absent data 0) is the
model's choice, log 12. -/
def Obligations.WrittenOutWordsDecode : Prop :=
  decodeTableWord 32 0x00000002 = some .hmac ∧
  decodeTableWord 32 0x00000005 = some .otp ∧
  decodeTableWord 32 0x00000012 = none ∧
  decodeTableWord 16 0x00C = some .rdStatus ∧
  decodeTableWord 16 0x038 = some (.rdPwdAsc 2) ∧
  decodeTableWord 16 0x07C = some (.rdDigest 15) ∧
  decodeTableWord 16 0x0FC = some (.rdRsvd 63) ∧
  decodeTableWord 16 0x108 = some (.wrCmd 0) ∧
  decodeTableWord 16 0x144 = some (.wrDigest 1 0) ∧
  decodeTableWord 16 0x101 = none

/-! ### Steps -/

/-- A host turn runs the instruction its header and data decode to; a header that decodes to nothing is refused (the
form of a turn is the model's, log 1 and log 9). -/
def Obligations.StepRunsTheDecodedTransaction : Prop :=
  ∀ (s : State) (hdr : Header) (data : Word) (rest : List Turn), s.turns = .host hdr data :: rest →
    (∀ i, decode (.bus hdr data) = .ok i → step s = exec i { s with turns := rest }) ∧
    (∀ x, decode (.bus hdr data) = .error x → step s = .refused .noSuchHeader)

/-- While busy a sequencer turn, or the end of the turns, runs the command whose word the latched opcode is (the form of
a turn and the fair end are the model's, log 1 and log 2). -/
def Obligations.StepCompletesTheLatchedCommand : Prop :=
  ∀ (s : State) (rest : List Turn), s.block.busy = true →
    (s.turns = .sequencer :: rest ∨ (s.turns = [] ∧ rest = [])) →
    ∃ i, decode (.cmd (Opc.word s.block.opl)) = .ok i ∧ step s = exec i { s with turns := rest }

/-- While idle Complete is not enabled: a sequencer turn, or the end of the turns, changes nothing (log 2, log 3). -/
def Obligations.IdleSequencerTurnChangesNothing : Prop :=
  ∀ (s : State) (rest : List Turn), s.block.busy = false →
    (s.turns = .sequencer :: rest ∨ (s.turns = [] ∧ rest = [])) → step s = .next { s with turns := rest }

/-- R320: in every state, idle or busy, a reset turn sets every component to its reset value, and `irq` is then 0. -/
def Obligations.ResetSetsEveryComponent : Prop :=
  ∀ (s : State) (rest : List Turn), s.turns = .reset :: rest →
    ∃ t, step s = .next t ∧ Block.AtReset t.block ∧ irq t.block = false

/-- R43: the reset value of every component, the words every register then reads as, and `irq`. -/
def Obligations.RegistersReadTheirResetWords : Prop :=
  let reads := fun (i : Instr) (w : Word) => exec i State.reset = .next { State.reset with rdata := w }
  Block.AtReset State.reset.block ∧
  reads .rdId 0x4F545031#32 ∧ reads .rdCfg 0x00000060#32 ∧ reads .rdCmd 0#32 ∧ reads .rdStatus 0#32 ∧
  reads .rdCtrHi 0#32 ∧ reads .rdCtrLo 0#32 ∧ reads .rdKeyPush 0#32 ∧ reads .rdKeyLen 0#32 ∧
  reads .rdValue 0#32 ∧ reads .rdRstat 0#32 ∧ reads .rdPwdBcd0 0xFFFFFFFF#32 ∧ reads .rdPwdBcd1 0xFFFFFFFF#32 ∧
  (∀ j, reads (.rdPwdAsc j) 0#32) ∧ (∀ k, reads (.rdDigest k) 0#32) ∧ (∀ x, reads (.rdRsvd x) 0#32) ∧
  irq State.reset.block = false

/-- There is no stuck state: whatever the block's state, a step answers a next state and uses up one turn, provided the
turns are ones the port can carry (spec/93_implementation_defined.md part 1, spec/20_memory.md section 1). -/
def Obligations.NoStateIsStuck : Prop :=
  ∀ s : State, s.carried = true → ∃ t, step s = .next t ∧ t.turns = s.turns.tail ∧ t.carried = true

/-- Complete is taken in the end: one step after the last turn the block is idle (spec/40_command_sequencing.md
section 1, the fairness; that the sequencer acts when no turn is left is the model's form of it, log 2). -/
def Obligations.EveryCommandCompletesInTheEnd : Prop :=
  ∀ s : State, s.carried = true →
    ∃ t, Sys2Proof.core.run (s.turns.length + 1) s = .next t ∧ t.block.busy = false

/-! ### Invariants -/

/-- The reset state has the invariants I1 to I11 of spec/10_state.md section 9 and canonical buffers, and no
command without its key is in progress in it. -/
def Obligations.InvariantsHoldAtReset : Prop := Block.Inv State.reset.block ∧ Block.KeyedCommand State.reset.block

/-- Every step, of any agent, keeps the invariants I1 to I11 of spec/10_state.md section 9 and the canonical form of the
buffers. -/
def Obligations.EveryStepKeepsTheInvariants : Prop :=
  ∀ s t : State, Block.Inv s.block → step s = .next t → Block.Inv t.block

/-- A command in progress that needs a key always has one, so that no accepted command can fail
(spec/40_command_sequencing.md section 1, spec/20_memory.md section 6). -/
def Obligations.EveryStepKeepsTheKeyOfAKeyedCommand : Prop :=
  ∀ s t : State, Block.KeyedCommand s.block → step s = .next t → Block.KeyedCommand t.block

/-! ### Reads -/

/-- R212, R216, R218: `ID` reads as its constant, `CMD` and `KEY_PUSH` as 0, in every state, and nothing else changes. -/
def Obligations.ConstantRegistersReadTheirConstants : Prop :=
  ReadsAs .rdId (fun _ => 0x4F545031) ∧ ReadsAs .rdCmd (fun _ => 0) ∧ ReadsAs .rdKeyPush (fun _ => 0)

/-- R214, R227, R228: `CFG`, `VALUE` and `RSTAT` read as their fields at their places, and nothing else changes. -/
def Obligations.FieldRegistersReadTheirFields : Prop :=
  ReadsAs .rdCfg (fun b => b.intEn.toNat * 2 ^ 8 + b.digits.toNat * 2 ^ 4 + (Alg.code b.alg).toNat) ∧
  ReadsAs .rdValue (fun b => b.value.toNat) ∧
  ReadsAs .rdRstat (fun b => b.pwdLen.toNat * 2 ^ 8 + b.offset.toNat)

/-- R225: `KEY_LEN` reads as the length of the key, which is at most `Config.keyMax` (whatever that parameter is: the number
is log 6). -/
def Obligations.KeyLengthReadsTheLength : Prop :=
  ∀ s : State, s.block.keyLen ≤ Config.keyMax →
    ∃ w : Word, exec .rdKeyLen s = .next { s with rdata := w } ∧ w.toNat = s.block.keyLen ∧ w.toNat ≤ Config.keyMax

/-- R220: `STATUS` reads as its seven flags at their places, clears nothing, and never shows `BUSY` and `DONE` together
where the invariant I10 holds. -/
def Obligations.StatusReadsItsFlags : Prop :=
  ReadsAs .rdStatus (fun b =>
    b.errBusy.toNat * 2 ^ 12 + b.errOpcode.toNat * 2 ^ 11 + b.errKeyOvf.toNat * 2 ^ 10 + b.errKeyEmpty.toNat * 2 ^ 9
      + b.errCfg.toNat * 2 ^ 8 + b.done.toNat * 2 + b.busy.toNat) ∧
  ∀ s t : State, (s.block.busy = true → s.block.done = false) → exec .rdStatus s = .next t → t.rdata.toNat % 4 ≠ 3

/-- R222, R224: the two halves of the counter. -/
def Obligations.CounterHalvesRead : Prop :=
  ReadsAs .rdCtrHi (fun b => b.ctr.toNat / 2 ^ 32) ∧ ReadsAs .rdCtrLo (fun b => b.ctr.toNat % 2 ^ 32)

/-- R229, R230: nibble `i` from the top of the two BCD words is digit `i`, or 8 + `i`, of the password, and 0xF from
`PWD_LEN` on. -/
def Obligations.BcdViewShowsTheDigits : Prop :=
  ∀ s : State,
    (∃ w : Word, exec .rdPwdBcd0 s = .next { s with rdata := w } ∧
      ∀ i, i < 8 → w.toNat / 16 ^ (7 - i) % 16 = if i < s.block.pwdLen.toNat then (digit s.block i).toNat else 15) ∧
    (∃ w : Word, exec .rdPwdBcd1 s = .next { s with rdata := w } ∧
      ∀ i, i < 8 →
        w.toNat / 16 ^ (7 - i) % 16 = if 8 + i < s.block.pwdLen.toNat then (digit s.block (8 + i)).toNat else 15)

/-- R231: byte `i` from the top of ASCII word `j` is 0x30 plus digit 4`j` + `i` of the password, and 0 from `PWD_LEN`
on. -/
def Obligations.AsciiViewShowsTheCharacters : Prop :=
  ∀ (s : State) (j : BitVec 2),
    ∃ w : Word, exec (.rdPwdAsc j) s = .next { s with rdata := w } ∧
      ∀ i, i < 4 → w.toNat / 256 ^ (3 - i) % 256 =
        if 4 * j.toNat + i < s.block.pwdLen.toNat then 0x30 + (digit s.block (4 * j.toNat + i)).toNat else 0

/-- R233: digest word `k` is the big-endian value of the bytes 4`k` to 4`k` + 3 of the digest buffer. -/
def Obligations.DigestWordsReadBigEndian : Prop :=
  ∀ k : BitVec 4, ReadsAs (.rdDigest k) (fun b => bigEndian4 b.dg (4 * k.toNat))

/-- A read transaction, of any slot, in idle and busy state alike, is never refused and changes no state of the block
(spec/45_register_access.md section 1). -/
def Obligations.NoReadChangesTheBlock : Prop :=
  ∀ (s : State) (hdr : Header) (data : Word) (rest : List Turn), s.turns = .host hdr data :: rest →
    hdr.toNat % 4 = 0 → hdr.toNat < 0x100 → ∃ t, step s = .next t ∧ t.block = s.block ∧ t.turns = rest

/-! ### Writes -/

/-- R219: in every state a write of `STATUS` clears exactly the flags whose bits are 1 in the word, so that `STATUS` then
reads as before without the bits of `data & 0x1F02`, nothing else changes, and clearing `DONE` lowers `irq`. -/
def Obligations.StatusWriteClearsTheOnes : Prop :=
  ∀ (s : State) (data : Word),
    exec (.wrStatus data) s = .next { s with block := { s.block with
      done := s.block.done && !data.getLsbD 1
      errCfg := s.block.errCfg && !data.getLsbD 8
      errKeyEmpty := s.block.errKeyEmpty && !data.getLsbD 9
      errKeyOvf := s.block.errKeyOvf && !data.getLsbD 10
      errOpcode := s.block.errOpcode && !data.getLsbD 11
      errBusy := s.block.errBusy && !data.getLsbD 12 } } ∧
    ∀ t, exec (.wrStatus data) s = .next t →
      statusWord t.block = statusWord s.block &&& ~~~(data &&& 0x00001F02#32) ∧
      (data.getLsbD 1 = true → irq t.block = false)

/-- R213: while idle a word with `DIGITS` below 6 or `ALG` = 3 is rejected whole, with `ERR_CFG`; every other word is
stored, its other bits ignored, and `irq` follows at once. -/
def Obligations.ConfigurationIsStoredWholeOrRejectedWhole : Prop :=
  ∀ (s : State) (data : Word), s.block.busy = false →
    ((data.toNat % 4 = 3 ∨ data.toNat / 16 % 16 < 6) →
      exec (.wrCfg data) s = .next { s with block := { s.block with errCfg := true } }) ∧
    (¬(data.toNat % 4 = 3 ∨ data.toNat / 16 % 16 < 6) →
      ∃ a : Alg, (Alg.code a).toNat = data.toNat % 4 ∧
        exec (.wrCfg data) s = .next { s with block := { s.block with
          alg := a, digits := BitVec.ofNat 4 (data.toNat / 16), intEn := data.getLsbD 8 } } ∧
        ∀ t, exec (.wrCfg data) s = .next t → irq t.block = (data.getLsbD 8 && s.block.done))

/-- R121, R122, R123: while idle an illegal word is rejected with `ERR_OPCODE`, HMAC or OTP without a key with
`ERR_KEY_EMPTY`, both with `DONE`; every other word latches its opcode, sets `BUSY` and clears `DONE`, which lowers
`irq`. Nothing else changes. An accepted command cannot fail: while busy the Complete of the latched command answers a
next state, and raises no error. -/
def Obligations.CommandWriteIsAcceptedOrRejected : Prop :=
  (∀ (s : State) (data : Word), s.block.busy = false →
    ((data.toNat / 16 ≠ 0 ∨ 7 ≤ data.toNat % 16) →
      exec (.wrCmd data) s = .next { s with block := { s.block with errOpcode := true, done := true } }) ∧
    ((data = 2#32 ∨ data = 5#32) → s.block.keyLen = 0 →
      exec (.wrCmd data) s = .next { s with block := { s.block with errKeyEmpty := true, done := true } }) ∧
    (data.toNat < 7 → ¬((data = 2#32 ∨ data = 5#32) ∧ s.block.keyLen = 0) →
      ∃ op : Opc, (Opc.code op).toNat = data.toNat ∧
        exec (.wrCmd data) s = .next { s with block := { s.block with opl := op, busy := true, done := false } } ∧
        ∀ t, exec (.wrCmd data) s = .next t → irq t.block = false)) ∧
  ∀ s : State, s.block.busy = true →
    ∃ t, exec (Opc.toInstr s.block.opl) s = .next t ∧ ∀ e, errorBit t.block e = errorBit s.block e

/-- R217: while idle a push into a full buffer raises `ERR_KEY_OVF` and does nothing else; any other push appends the low
byte of the word and adds one to the length, and nothing else changes. -/
def Obligations.KeyPushAppendsOneByte : Prop :=
  ∀ (s : State) (data : Word), s.block.busy = false →
    (s.block.keyLen = Config.keyMax →
      exec (.wrKeyPush data) s = .next { s with block := { s.block with errKeyOvf := true } }) ∧
    (s.block.keyLen < Config.keyMax → s.block.key.wf Config.keyMax = true →
      ∃ key' : Memory,
        exec (.wrKeyPush data) s = .next { s with block := { s.block with
          key := key', keyLen := s.block.keyLen + 1 } } ∧
        ∀ i, (key'.read i).toNat =
          if i = s.block.keyLen then data.toNat % 256 else (s.block.key.read i).toNat)

/-- R221, R223: while idle a write of one half of the counter replaces that half and leaves the other; nothing else
changes, and the order of two writes of the halves does not matter. -/
def Obligations.CounterHalvesAreWrittenApart : Prop :=
  ∀ (s : State) (hi lo : Word), s.block.busy = false →
    exec (.wrCtrHi hi) s = .next { s with block := { s.block with
      ctr := BitVec.ofNat 64 (hi.toNat * 2 ^ 32 + s.block.ctr.toNat % 2 ^ 32) } } ∧
    exec (.wrCtrLo lo) s = .next { s with block := { s.block with
      ctr := BitVec.ofNat 64 (s.block.ctr.toNat / 2 ^ 32 * 2 ^ 32 + lo.toNat) } } ∧
    ∃ a b c : State, exec (.wrCtrHi hi) s = .next a ∧ exec (.wrCtrLo lo) a = .next b ∧
      exec (.wrCtrLo lo) s = .next c ∧ exec (.wrCtrHi hi) c = .next b ∧
      b.block.ctr = BitVec.ofNat 64 (hi.toNat * 2 ^ 32 + lo.toNat)

/-- R226: while idle a write of `VALUE` stores `data[30:0]`; bit 31 is discarded and nothing else changes. -/
def Obligations.ValueWriteDropsTheTopBit : Prop :=
  ∀ (s : State) (data : Word), s.block.busy = false →
    ∃ v : BitVec 31, v.toNat = data.toNat % 2 ^ 31 ∧
      exec (.wrValue data) s = .next { s with block := { s.block with value := v } }

/-- R232: while idle a write of digest word `k` stores its four bytes, the most significant at 4`k`; every other byte of
the buffer, and everything else, is unchanged. -/
def Obligations.DigestWriteStoresFourBytes : Prop :=
  ∀ (s : State) (k : BitVec 4) (data : Word), s.block.busy = false → s.block.dg.wf dgSize = true →
    ∃ dg' : Memory,
      exec (.wrDigest k data) s = .next { s with block := { s.block with dg := dg' } } ∧
      ∀ a, (dg'.read a).toNat =
        if a / 4 = k.toNat then data.toNat / 256 ^ (3 - a % 4) % 256 else (s.block.dg.read a).toNat

/-- R234, R235: in idle and busy state alike a write of a read-only register or of a reserved slot does nothing, not even
to a flag, and a reserved slot reads as 0. -/
def Obligations.ReadOnlyAndReservedSlotsIgnoreWrites : Prop :=
  ∀ (s : State) (data : Word) (j : BitVec 2) (x : BitVec 6),
    exec (.wrId data) s = .next s ∧ exec (.wrKeyLen data) s = .next s ∧ exec (.wrRstat data) s = .next s ∧
    exec (.wrPwdBcd0 data) s = .next s ∧ exec (.wrPwdBcd1 data) s = .next s ∧
    exec (.wrPwdAsc j data) s = .next s ∧ exec (.wrRsvd x data) s = .next s ∧
    exec (.rdRsvd x) s = .next { s with rdata := 0#32 }

/-- R211: a write transaction, in the order of its checks: `STATUS` is written in every state; an offset outside `WR_SET`
does nothing; while busy the write is dropped and only `ERR_BUSY` is set; otherwise the register's own rule runs. -/
def Obligations.WritesAreDispatchedInOrder : Prop :=
  ∀ (s : State) (hdr : Header) (data : Word) (rest : List Turn), s.turns = .host hdr data :: rest →
    hdr.toNat % 4 = 0 → 0x100 ≤ hdr.toNat →
    let u : State := { s with turns := rest }
    (byteOffset hdr = 0x0C → step s = exec (.wrStatus data) u) ∧
    (byteOffset hdr ≠ 0x0C → ¬inWriteSet (byteOffset hdr) → step s = .next u) ∧
    (inWriteSet (byteOffset hdr) → s.block.busy = true →
      step s = .next { u with block := { s.block with errBusy := true } }) ∧
    (inWriteSet (byteOffset hdr) → s.block.busy = false →
      ∃ i, decodeBus hdr data = .ok i ∧
        i ∈ [.wrCfg data, .wrCmd data, .wrCtrHi data, .wrCtrLo data, .wrKeyPush data, .wrValue data]
          ++ (List.range 16).map (fun k => .wrDigest (BitVec.ofNat 4 k) data) ∧
        step s = exec i u)

/-- A register read after its write returns what was written, less what its write discards (spec/20_memory.md
section 6). -/
def Obligations.ReadsReturnTheLastWrite : Prop :=
  ∀ (s : State) (data : Word) (k : BitVec 4), s.block.busy = false → s.block.dg.wf dgSize = true →
    (∃ t, exec (.wrCtrHi data) s = .next t ∧ exec .rdCtrHi t = .next { t with rdata := data }) ∧
    (∃ t, exec (.wrCtrLo data) s = .next t ∧ exec .rdCtrLo t = .next { t with rdata := data }) ∧
    (∃ t, exec (.wrValue data) s = .next t ∧ exec .rdValue t = .next { t with rdata := data &&& 0x7FFFFFFF#32 }) ∧
    (∃ t, exec (.wrDigest k data) s = .next t ∧ exec (.rdDigest k) t = .next { t with rdata := data }) ∧
    (¬(data.toNat % 4 = 3 ∨ data.toNat / 16 % 16 < 6) →
      ∃ t, exec (.wrCfg data) s = .next t ∧ exec .rdCfg t = .next { t with rdata := data &&& 0x000001F3#32 })

/-! ### Rules about the whole machine -/

/-- R281: an error flag that is 0 is raised by a step exactly when the step is a host write with the cause the table
gives for that flag. The step then does nothing else to the block (so no step raises two, and no value is recorded), but
for `DONE` with the two errors of `CMD`. The flag's code is its bit of `STATUS`. -/
def Obligations.ErrorsAreRaisedExactlyByTheirCauses : Prop :=
  (∀ (s t : State) (e : ErrorFlag), step s = .next t → errorBit s.block e = false →
    (errorBit t.block e = true ↔
      ∃ hdr data rest, s.turns = .host hdr data :: rest ∧ ErrorCause e s.block hdr data) ∧
    (errorBit t.block e = true → t.rdata = s.rdata ∧
      (e = .cfg → t.block = { s.block with errCfg := true }) ∧
      (e = .keyEmpty → t.block = { s.block with errKeyEmpty := true, done := true }) ∧
      (e = .keyOvf → t.block = { s.block with errKeyOvf := true }) ∧
      (e = .opcode → t.block = { s.block with errOpcode := true, done := true }) ∧
      (e = .busy → t.block = { s.block with errBusy := true }))) ∧
  ∀ (b : Block) (e : ErrorFlag), (statusWord b).getLsbD (ErrorFlag.code e) = errorBit b e

/-- Error flags are sticky: a step clears one only if it is a reset or a write of `STATUS` with that flag's bit set
(spec/10_state.md section 3). -/
def Obligations.ErrorFlagsAreSticky : Prop :=
  ∀ (s t : State) (e : ErrorFlag), step s = .next t → errorBit s.block e = true → errorBit t.block e = false →
    (∃ rest, s.turns = .reset :: rest) ∨
    (∃ data rest, s.turns = .host 0x10C#9 data :: rest ∧ data.getLsbD (ErrorFlag.code e) = true)

/-- No rule reads an error flag: from two states that differ in error flags only, the steps go to states that differ in
error flags only, and return the same word unless the step reads `STATUS` (spec/60_exceptions.md section 5). -/
def Obligations.NoStepReadsAnErrorFlag : Prop :=
  ∀ s s' t : State, SameButErrors s.block s'.block → s.turns = s'.turns → s.rdata = s'.rdata → step s = .next t →
    ∃ t', step s' = .next t' ∧ SameButErrors t.block t'.block ∧ t.turns = t'.turns ∧
      ((∀ data rest, s.turns ≠ .host 0x00C#9 data :: rest) → t.rdata = t'.rdata)

/-- No transaction shows a key byte: from two states that differ in the bytes of the key only, a host turn goes to states
that differ in the bytes of the key only, and returns the same word (spec/10_state.md section 5). -/
def Obligations.NoTransactionShowsAKeyByte : Prop :=
  ∀ (s s' t : State) (hdr : Header) (data : Word) (rest : List Turn), s.turns = .host hdr data :: rest →
    SameButKey s.block s'.block → s.turns = s'.turns → s.rdata = s'.rdata → step s = .next t →
    ∃ t', step s' = .next t' ∧ SameButKey t.block t'.block ∧ t.turns = t'.turns ∧ t.rdata = t'.rdata

/-- While a command is in progress no transaction of the host changes anything of the block but the error flags and
`DONE` (spec/20_memory.md section 6). -/
def Obligations.TransactionsLeaveARunningCommandAlone : Prop :=
  ∀ (s t : State) (hdr : Header) (data : Word) (rest : List Turn), s.turns = .host hdr data :: rest →
    s.block.busy = true → step s = .next t →
    SameButErrors { s.block with done := t.block.done } t.block ∧ (t.block.done = true → s.block.done = true)

/-- The result of a command is a function of the state at its acceptance: however many transactions of the host come
before Complete, the block ends as if Complete had come at once, but for the error flags (spec/00_scope.md section 7,
spec/20_memory.md section 6). -/
def Obligations.ResultsDoNotDependOnTheDelay : Prop :=
  ∀ (s : State) (delay rest : List Turn), s.block.busy = true →
    (∀ x ∈ delay, ∃ hdr data, x = Turn.host hdr data ∧ hdr.toNat % 4 = 0) →
    s.turns = delay ++ .sequencer :: rest →
    ∃ t t', Sys2Proof.core.run (delay.length + 1) s = .next t ∧
      step { s with turns := .sequencer :: rest } = .next t' ∧
      t.turns = rest ∧ t.block.busy = false ∧ SameButErrors t.block t'.block

/-- `BUSY` rises only by the acceptance of a legal command word, whose opcode is then latched, and falls only by Complete
or reset (spec/10_state.md sections 2 and 3). -/
def Obligations.BusyFollowsTheSequencer : Prop :=
  ∀ s t : State, step s = .next t →
    (s.block.busy = false → t.block.busy = true →
      ∃ data rest, s.turns = .host 0x108#9 data :: rest ∧ data.toNat < 7 ∧
        (Opc.code t.block.opl).toNat = data.toNat ∧ t.block.done = false) ∧
    (s.block.busy = true → t.block.busy = false →
      (s.turns = [] ∨ ∃ rest, s.turns = .sequencer :: rest ∨ s.turns = .reset :: rest))

/-- The counter changes only by a write of one of its halves, by the Complete of ZEROIZE, or by reset: the block never
increments it (spec/10_state.md section 2). -/
def Obligations.TheBlockNeverAdvancesTheCounter : Prop :=
  ∀ s t : State, step s = .next t → t.block.ctr ≠ s.block.ctr →
    (∃ data rest, s.turns = .host 0x110#9 data :: rest ∨ s.turns = .host 0x114#9 data :: rest) ∨
    (∃ rest, s.turns = .reset :: rest) ∨
    (s.block.opl = .zeroize ∧ s.block.busy = true ∧ (s.turns = [] ∨ ∃ rest, s.turns = .sequencer :: rest))

/-- The level of `irq` is `INT_EN` and `DONE` together, so Complete raises it where enabled, a rejected command too, and
acceptance or a write of `STATUS` with bit 1 lowers it (spec/60_exceptions.md section 3). -/
def Obligations.InterruptFollowsDoneAndEnable : Prop :=
  (∀ (s : State) (op : Opc), ∃ t, exec op.toInstr s = .next t ∧ irq t.block = s.block.intEn) ∧
  (∀ (s : State) (data : Word), s.block.busy = false →
    ∃ t, exec (.wrCmd data) s = .next t ∧ irq t.block = (s.block.intEn && !t.block.busy)) ∧
  (∀ (s : State) (data : Word), data.getLsbD 1 = true →
    ∃ t, exec (.wrStatus data) s = .next t ∧ irq t.block = false)

/-! ### Commands -/

/-- The Complete of every command writes only its own results, `BUSY` and `DONE` (spec/30_encoding.md section 3). That exec
gives Complete in every state, also in those in which R124 does not enable it, is the model's choice, log 5; the step takes
it only while `BUSY` = 1. -/
def Obligations.CommandsWriteOnlyTheirResults : Prop :=
  ∀ (s : State) (op : Opc), ∃ t, exec op.toInstr s = .next t ∧ t.rdata = s.rdata ∧ t.turns = s.turns ∧
    t.block.busy = false ∧ t.block.done = true ∧ t.block.opl = s.block.opl ∧
    t.block.alg = s.block.alg ∧ t.block.digits = s.block.digits ∧ t.block.intEn = s.block.intEn ∧
    (∀ e, errorBit t.block e = errorBit s.block e) ∧
    (op ∉ [.keyclr, .zeroize] → t.block.key = s.block.key ∧ t.block.keyLen = s.block.keyLen) ∧
    (op ≠ .zeroize → t.block.ctr = s.block.ctr) ∧
    (op ∉ [.hmac, .otp, .zeroize] → t.block.dg = s.block.dg) ∧
    (op ∉ [.trunc, .otp, .zeroize] → t.block.value = s.block.value ∧ t.block.offset = s.block.offset) ∧
    (op ∉ [.render, .otp, .zeroize] → t.block.dig = s.block.dig ∧ t.block.pwdLen = s.block.pwdLen)

/-- R125, R126: NOP and KEYCLR are accepted when idle; the Complete of NOP touches the handshake only, and that of KEYCLR
also clears every byte of the key and its length. -/
def Obligations.NopAndKeyclrComplete : Prop :=
  ∀ s : State,
    (s.block.busy = false → exec (.wrCmd 0x00000000#32) s =
      .next { s with block := { s.block with opl := .nop, busy := true, done := false } }) ∧
    exec .nop s = .next { s with block := { s.block with busy := false, done := true } } ∧
    (s.block.busy = false → exec (.wrCmd 0x00000001#32) s =
      .next { s with block := { s.block with opl := .keyclr, busy := true, done := false } }) ∧
    ∃ key' : Memory, (∀ i, key'.read i = 0) ∧
      exec .keyclr s = .next { s with block := { s.block with
        key := key', keyLen := 0, busy := false, done := true } }

/-- R127: ZEROIZE is accepted when idle; after its Complete the block equals the reset block but for `CFG`, the error
flags, `DONE` and `OPL`. -/
def Obligations.ZeroizeLeavesTheResetBlock : Prop :=
  ∀ s : State,
    (s.block.busy = false → exec (.wrCmd 0x00000006#32) s =
      .next { s with block := { s.block with opl := .zeroize, busy := true, done := false } }) ∧
    exec .zeroize s = .next { s with block := { State.reset.block with
      alg := s.block.alg, digits := s.block.digits, intEn := s.block.intEn, opl := s.block.opl, done := true
      errCfg := s.block.errCfg, errKeyEmpty := s.block.errKeyEmpty, errKeyOvf := s.block.errKeyOvf
      errOpcode := s.block.errOpcode, errBusy := s.block.errBusy } }

/-- R141: TRUNC is accepted when idle; its Complete takes the offset from the low nibble of byte `L` - 1 and the value
from the four bytes there, big-endian, without the top bit, and changes nothing else but the handshake; `L` is 20, 32 or
64. -/
def Obligations.TruncExtractsTheInteger : Prop :=
  DigestLengths ∧ ∀ s : State,
    (s.block.busy = false → exec (.wrCmd 0x00000003#32) s =
      .next { s with block := { s.block with opl := .trunc, busy := true, done := false } }) ∧
    ∃ (o : BitVec 4) (v : BitVec 31),
      o.toNat = (s.block.dg.read (Alg.digestLen s.block.alg - 1)).toNat % 16 ∧
      v.toNat = bigEndian4 s.block.dg o.toNat % 2 ^ 31 ∧
      exec .trunc s = .next { s with block := { s.block with offset := o, value := v, busy := false, done := true } }

/-- Truncation reads the bytes 0 to 18 and the low nibble of the last byte only (spec/41_truncate.md section 3). -/
def Obligations.TruncationReadsOnlyItsBytes : Prop :=
  ∀ d d' : List Byte, 20 ≤ d.length → d.length = d'.length → (∀ i, i < 19 → byteAt d i = byteAt d' i) →
    (byteAt d (d.length - 1)).toNat % 16 = (byteAt d' (d.length - 1)).toNat % 16 →
    dynamicTruncation d = dynamicTruncation d'

/-- R151: RENDER is accepted when idle; its Complete writes all 16 positions of the digit file, those below `DIGITS` with
the digits of the value and the others with 0, latches `DIGITS` into `PWD_LEN`, and changes nothing else but the
handshake. -/
def Obligations.RenderWritesTheDigits : Prop :=
  ∀ s : State,
    (s.block.busy = false → exec (.wrCmd 0x00000004#32) s =
      .next { s with block := { s.block with opl := .render, busy := true, done := false } }) ∧
    ∃ dig' : Vector (BitVec 4) 16,
      exec .render s = .next { s with block := { s.block with
        dig := dig', pwdLen := s.block.digits, busy := false, done := true } } ∧
      ∀ i, i < 16 → (dig'.getD i 0).toNat =
        if i < s.block.digits.toNat then
          s.block.value.toNat % 10 ^ s.block.digits.toNat / 10 ^ (s.block.digits.toNat - 1 - i) % 10
        else 0

/-- The password RENDER leaves has exactly `DIGITS` digits, each at most 9, and its value is `VALUE` mod 10 to the
`DIGITS` (spec/42_render.md section 2); digit counts below 6, which no run holds, are included (log 5). -/
def Obligations.RenderedPasswordIsTheValueModuloPowerOfTen : Prop :=
  ∀ s : State, ∃ t, exec .render s = .next t ∧
    (passwordDigits t.block).length = s.block.digits.toNat ∧
    (∀ g ∈ passwordDigits t.block, g ≤ 9) ∧
    numericValue (passwordDigits t.block) = s.block.value.toNat % 10 ^ s.block.digits.toNat

/-- Rendering by repeated division by ten gives the same digits (spec/42_render.md section 2). -/
def Obligations.RenderingByRepeatedDivisionAgrees : Prop :=
  ∀ v d : Nat, digitsByDivision d v = renderFn v d

/-- R160, R162, R163: HMAC is accepted when idle with a key and rejected with `ERR_KEY_EMPTY` without one; its Complete
fills the digest buffer with the HMAC of the counter's eight bytes under the key, then zeros to its end, and changes
nothing else but the handshake. The digest has 20, 32 or 64 bytes by the algorithm. (Which function `HMAC` is, is R161:
log 8; that exec also gives a keyless Complete is log 5.) -/
def Obligations.HmacFillsTheDigestBuffer : Prop :=
  DigestLengths ∧ ∀ s : State,
    (s.block.busy = false → s.block.keyLen ≠ 0 → exec (.wrCmd 0x00000002#32) s =
      .next { s with block := { s.block with opl := .hmac, busy := true, done := false } }) ∧
    (s.block.busy = false → s.block.keyLen = 0 → exec (.wrCmd 0x00000002#32) s =
      .next { s with block := { s.block with errKeyEmpty := true, done := true } }) ∧
    ∃ dg' : Memory,
      exec .hmac s = .next { s with block := { s.block with dg := dg', busy := false, done := true } } ∧
      ∀ i, dg'.read i =
        if i < Alg.digestLen s.block.alg then byteAt (digestOf s.block) i else 0

/-- The HMAC of any key and message has the digest length of its algorithm, 20, 32 or 64 bytes (spec/43_hmac.md
section 1). -/
def Obligations.HmacHasTheDigestLength : Prop :=
  ∀ key m : List Byte,
    (hmac .sha1 key m).length = 20 ∧ (hmac .sha256 key m).length = 32 ∧ (hmac .sha512 key m).length = 64

/-- The construction of HMAC (spec/43_hmac.md section 1, from general knowledge, log 8): the key, hashed first if longer
than a block, is filled up with zeros to a block of 64, 64 or 128 bytes, and hashed twice with the pads 0x36 and 0x5C. -/
def Obligations.HmacFollowsItsConstruction : Prop :=
  BlockLengths ∧
  ∀ (alg : Alg) (key m : List Byte), ∃ k0 : List Byte,
    k0.length = Alg.blockLen alg ∧
    (∀ i, i < k0.length → byteAt k0 i = byteAt (if k0.length < key.length then hashOf alg key else key) i) ∧
    hmac alg key m = hashOf alg (k0.map (fun b => b ^^^ 0x5C#8) ++ hashOf alg (k0.map (fun b => b ^^^ 0x36#8) ++ m))

/-- A key longer than a block acts as its hash, and a key that fits a block acts as itself with zeros added (spec/43_hmac.md
section 1, from general knowledge, log 8). -/
def Obligations.LongKeysAreHashedAndShortKeysPadded : Prop :=
  ∀ (alg : Alg) (key m : List Byte) (n : Nat),
    (Alg.blockLen alg < key.length → hmac alg key m = hmac alg (hashOf alg key) m) ∧
    (key.length + n ≤ Alg.blockLen alg → hmac alg (key ++ zeros n) m = hmac alg key m)

/-- The padded message is the message, the byte 0x80, the least number of zero bytes that fills whole blocks, and the number
of bits of the message in `q` big-endian bytes (spec/44_sha.md section 1, from general knowledge, log 8). -/
def Obligations.PaddedMessageFillsWholeBlocks : Prop :=
  ∀ (bk q : Nat) (m : List Byte), 0 < bk →
    ∃ z : Nat,
      (padMessage bk q m).length = m.length + 1 + z + q ∧
      (padMessage bk q m).length % bk = 0 ∧
      (∀ z', (m.length + 1 + z' + q) % bk = 0 → z ≤ z') ∧
      (padMessage bk q m).take (m.length + 1) = m ++ [0x80#8] ∧
      (∀ i, i < z → byteAt (padMessage bk q m) (m.length + 1 + i) = 0) ∧
      ∀ i, i < q →
        (byteAt (padMessage bk q m) (m.length + 1 + z + i)).toNat = 8 * m.length / 256 ^ (q - 1 - i) % 256

/-- The message schedules of SHA-1 and SHA-2 begin with the block and follow their recurrences (spec/44_sha.md
sections 2 to 4, from general knowledge, log 8). -/
def Obligations.MessageSchedulesFollowTheirRecurrences : Prop :=
  (∀ (n : Nat) (block : List (BitVec 32)), block.length = 16 →
    let W := fun t => (schedule sha1Next n block).getD t 0
    (schedule sha1Next n block).length = 16 + n ∧ (∀ t, t < 16 → W t = block.getD t 0) ∧
    ∀ t, 16 ≤ t → t < 16 + n → W t = (W (t - 3) ^^^ W (t - 8) ^^^ W (t - 14) ^^^ W (t - 16)).rotateLeft 1) ∧
  (∀ (w n : Nat) (p : Sha2 w) (block : List (BitVec w)), block.length = 16 →
    let W := fun t => (schedule (sha2Next p) n block).getD t 0
    (schedule (sha2Next p) n block).length = 16 + n ∧ (∀ t, t < 16 → W t = block.getD t 0) ∧
    ∀ t, 16 ≤ t → t < 16 + n →
      W t = smallSigma p.smallS1 (W (t - 2)) + W (t - 7) + smallSigma p.smallS0 (W (t - 15)) + W (t - 16))

/-- R166: OTP is accepted when idle with a key and rejected with `ERR_KEY_EMPTY` without one; its Complete leaves the
digest of the key and counter, the offset and value of that digest, and the digits of that value, whatever the digest,
value and password were before, and changes nothing else but the handshake. It ends as HMAC, TRUNC and RENDER end when
issued one after the other with nothing between, but for `OPL`. The digest has 20, 32 or 64 bytes by the algorithm.
(Which function `HMAC` is, is R161: log 8; that exec also gives a keyless Complete is log 5.) -/
def Obligations.OtpComputesThePassword : Prop :=
  DigestLengths ∧ ∀ s : State,
    (s.block.busy = false → s.block.keyLen ≠ 0 → exec (.wrCmd 0x00000005#32) s =
      .next { s with block := { s.block with opl := .otp, busy := true, done := false } }) ∧
    (s.block.busy = false → s.block.keyLen = 0 → exec (.wrCmd 0x00000005#32) s =
      .next { s with block := { s.block with errKeyEmpty := true, done := true } }) ∧
    ∃ (dg' : Memory) (o : BitVec 4) (v : BitVec 31) (dig' : Vector (BitVec 4) 16),
      let L := Alg.digestLen s.block.alg
      let D := s.block.digits.toNat
      exec .otp s = .next { s with block := { s.block with
        dg := dg', offset := o, value := v, dig := dig', pwdLen := s.block.digits, busy := false, done := true } } ∧
      (∀ i, dg'.read i = if i < L then byteAt (digestOf s.block) i else 0) ∧
      o.toNat = (byteAt (digestOf s.block) (L - 1)).toNat % 16 ∧
      v.toNat = bigEndian4 dg' o.toNat % 2 ^ 31 ∧
      (∀ i, i < 16 → (dig'.getD i 0).toNat = if i < D then v.toNat % 10 ^ D / 10 ^ (D - 1 - i) % 10 else 0) ∧
      ∃ t a b c d e : State, exec .otp s = .next t ∧ exec .hmac s = .next a ∧
        exec (.wrCmd 0x00000003#32) a = .next b ∧ exec .trunc b = .next c ∧
        exec (.wrCmd 0x00000004#32) c = .next d ∧ exec .render d = .next e ∧
        e = { t with block := { t.block with opl := .render } }

/-! ### The host's driver -/

/-- The driver on the block (spec/48_host_software.md section 1, spec/43_hmac.md section 3). Construction, from any idle
state and with any wait, reports exactly a digit count below 6 and a secret too long for the block, or leaves a block that
holds the engine; and on a block that holds an engine a password of any counter, read from either view, is the source's
password, or is reported as an empty secret; the block still holds the engine. (The driver is the model's host, log 15;
that it has the port alone is its own assumption.) -/
def Obligations.EngineOnTheBlockGivesItsPasswords : Prop :=
  (∀ (e : Engine) (ie : Bool) (polls : Nat) (s : State), s.block.busy = false →
    let errs : List HostError := (if e.digits.toNat < 6 then [.invalidConfiguration] else [])
      ++ (if Config.keyMax < e.secret.length then [.secretTooLong] else [])
    ∃ t, Engine.constructOnBlock e ie polls s = some (if errs = [] then .ok () else .error errs, t) ∧
      (errs = [] → Block.Holds e t.block)) ∧
  (∀ (e : Engine) (ctr : BitVec 64) (view : View) (polls : Nat) (s : State), Block.Holds e s.block →
    (e.secret ≠ [] → ∃ t, passwordOnBlock ctr view polls s = some (.ok (Engine.passwordOf e ctr), t) ∧
      Block.Holds e t.block) ∧
    (e.secret = [] → ∃ t, passwordOnBlock ctr view polls s = some (.error [.secretEmpty], t) ∧
      Block.Holds e t.block))
end

