-- ==== Sys2Proof/Laws/Memory.lean ====
section
/-! SUPPORT. The laws of the byte buffers: what a read after a write gives, that every operation keeps the canonical
form, and that buffers in canonical form with the same bytes are equal. -/

namespace Sys2Proof.Machine

theorem Memory.read_nil (i : Nat) : Memory.read [] i = 0 := rfl

theorem Memory.unlisted_eq : Memory.unlisted = 0 := rfl

theorem Memory.risesFrom_mono {lo lo' : Nat} {m : Memory} (h : lo' ≤ lo) (hm : Memory.risesFrom lo m = true) :
    Memory.risesFrom lo' m = true := by
  cases m with
  | nil => rfl
  | cons c m =>
    obtain ⟨a, b⟩ := c
    simp only [Memory.risesFrom, Bool.and_eq_true, decide_eq_true_eq] at hm ⊢
    exact ⟨⟨by omega, hm.1.2⟩, hm.2⟩

/-- Below its lowest address a buffer reads as unlisted. -/
theorem Memory.read_below {lo : Nat} {m : Memory} (hm : Memory.risesFrom lo m = true) {i : Nat} (h : i < lo) :
    m.read i = 0 := by
  induction m generalizing lo with
  | nil => rfl
  | cons c m ih =>
    obtain ⟨a, b⟩ := c
    simp only [Memory.risesFrom, Bool.and_eq_true, decide_eq_true_eq] at hm
    rw [Memory.read, if_neg (by omega)]
    exact ih hm.2 (by omega)

/-- A read after a write: the written byte at its address, and every other byte as before. -/
theorem Memory.read_write {lo : Nat} {m : Memory} (hm : Memory.risesFrom lo m = true) (i : Nat) (v : Byte) (j : Nat) :
    (m.write i v).read j = if j = i then v else m.read j := by
  induction m generalizing lo with
  | nil =>
    by_cases hv : v = Memory.unlisted
    · simp [Memory.write, hv, Memory.read]
    · simp [Memory.write, hv, Memory.read, eq_comm]
  | cons c m ih =>
    obtain ⟨a, b⟩ := c
    simp only [Memory.risesFrom, Bool.and_eq_true, decide_eq_true_eq] at hm
    have hbelow : ∀ k, k ≤ a → Memory.read m k = 0 := fun k hk => Memory.read_below hm.2 (by omega)
    rw [Memory.write]
    by_cases hia : i < a
    · have hi : Memory.read ((a, b) :: m) i = 0 := by
        rw [Memory.read, if_neg (by omega)]; exact hbelow i (by omega)
      by_cases hv : v = Memory.unlisted
      · simp only [hia, if_true, hv]
        by_cases hj : j = i
        · subst hj; simp [hi, Memory.unlisted]
        · simp [hj]
      · simp only [hia, if_true, hv, if_false]
        rw [Memory.read]
        by_cases hj : j = i
        · simp [hj]
        · rw [if_neg (fun h => hj h.symm), if_neg hj]
    · by_cases hie : i = a
      · subst hie
        by_cases hv : v = Memory.unlisted
        · simp only [Nat.lt_irrefl, if_false, if_true, hv]
          by_cases hj : j = i
          · subst hj; simp [hbelow j (Nat.le_refl _), Memory.unlisted]
          · rw [if_neg hj, Memory.read, if_neg (fun h => hj h.symm)]
        · simp only [Nat.lt_irrefl, if_false, if_true, hv]
          by_cases hj : j = i
          · simp [hj, Memory.read]
          · rw [if_neg hj, Memory.read, Memory.read, if_neg (fun h => hj h.symm), if_neg (fun h => hj h.symm)]
      · simp only [hia, hie, if_false]
        by_cases hja : a = j
        · subst hja; simp [Memory.read, Ne.symm hie]
        · rw [Memory.read, if_neg hja, ih hm.2, Memory.read, if_neg hja]

theorem Memory.risesFrom_write {lo : Nat} {m : Memory} (hm : Memory.risesFrom lo m = true) {i : Nat} (hi : lo ≤ i)
    (v : Byte) : Memory.risesFrom lo (m.write i v) = true := by
  induction m generalizing lo with
  | nil =>
    by_cases hv : v = Memory.unlisted
    · simp [Memory.write, hv, Memory.risesFrom]
    · simp [Memory.write, hv, Memory.risesFrom, hi]
  | cons c m ih =>
    obtain ⟨a, b⟩ := c
    have hm' := hm
    simp only [Memory.risesFrom, Bool.and_eq_true, decide_eq_true_eq] at hm'
    rw [Memory.write]
    by_cases hia : i < a
    · by_cases hv : v = Memory.unlisted
      · simpa only [hia, if_true, hv] using hm
      · simp only [hia, if_true, hv, if_false, Memory.risesFrom, Bool.and_eq_true, decide_eq_true_eq]
        exact ⟨⟨hi, hv⟩, ⟨hia, hm'.1.2⟩, hm'.2⟩
    · by_cases hie : i = a
      · subst hie
        by_cases hv : v = Memory.unlisted
        · simp only [Nat.lt_irrefl, if_false, if_true, hv]
          exact Memory.risesFrom_mono (by omega) hm'.2
        · simp only [Nat.lt_irrefl, if_false, if_true, hv, Memory.risesFrom, Bool.and_eq_true, decide_eq_true_eq]
          exact ⟨⟨hi, hv⟩, hm'.2⟩
      · simp only [hia, hie, if_false, Memory.risesFrom, Bool.and_eq_true, decide_eq_true_eq]
        exact ⟨hm'.1, ih hm'.2 (by omega)⟩

theorem Memory.below_write {size : Nat} {m : Memory} (hm : Memory.below size m = true) {i : Nat} (hi : i < size)
    (v : Byte) : Memory.below size (m.write i v) = true := by
  induction m with
  | nil =>
    by_cases hv : v = Memory.unlisted
    · simp [Memory.write, hv, Memory.below]
    · simp [Memory.write, hv, Memory.below, hi]
  | cons c m ih =>
    obtain ⟨a, b⟩ := c
    simp only [Memory.below, List.all_cons, Bool.and_eq_true, decide_eq_true_eq] at hm ih ⊢
    rw [Memory.write]
    split
    · split
      · simp [hm]
      · simp [hm, hi]
    · split
      · split
        · exact hm.2
        · simp [hm.2, hi]
      · simp only [List.all_cons, Bool.and_eq_true, decide_eq_true_eq]
        exact ⟨hm.1, ih hm.2⟩

theorem Memory.wf_nil (size : Nat) : Memory.wf size [] = true := rfl

theorem Memory.wf_iff {size : Nat} {m : Memory} :
    m.wf size = true ↔ Memory.risesFrom 0 m = true ∧ Memory.below size m = true := by
  simp [Memory.wf]

/-- A write keeps the canonical form. -/
theorem Memory.wf_write {size : Nat} {m : Memory} (hm : m.wf size = true) {i : Nat} (hi : i < size) (v : Byte) :
    (m.write i v).wf size = true := by
  rw [Memory.wf_iff] at hm ⊢
  exact ⟨Memory.risesFrom_write hm.1 (Nat.zero_le _) v, Memory.below_write hm.2 hi v⟩

/-- Writing a sequence of bytes keeps the canonical form. -/
theorem Memory.wf_writeBytes {size : Nat} {m : Memory} (hm : m.wf size = true) (bs : List Byte) (i : Nat)
    (hi : i + bs.length ≤ size) : (m.writeBytes i bs).wf size = true := by
  induction bs generalizing m i with
  | nil => exact hm
  | cons b bs ih =>
    simp only [List.length_cons] at hi
    exact ih (Memory.wf_write hm (by omega) b) (i + 1) (by omega)

/-- A read after writing a sequence of bytes. -/
theorem Memory.read_writeBytes {m : Memory} (hm : Memory.risesFrom 0 m = true) (bs : List Byte) (i j : Nat) :
    (m.writeBytes i bs).read j = if i ≤ j ∧ j < i + bs.length then bs.getD (j - i) 0 else m.read j := by
  induction bs generalizing m i with
  | nil => rw [Memory.writeBytes, if_neg (by simp only [List.length_nil]; omega)]
  | cons b bs ih =>
    rw [Memory.writeBytes, ih (Memory.risesFrom_write hm (Nat.zero_le _) b), Memory.read_write hm]
    simp only [List.length_cons]
    by_cases hj : j = i
    · subst hj
      rw [if_neg (by omega), if_pos rfl, if_pos (by omega), Nat.sub_self]; rfl
    · by_cases hlt : i + 1 ≤ j ∧ j < i + 1 + bs.length
      · rw [if_pos hlt, if_pos (by omega)]
        have : j - i = (j - (i + 1)) + 1 := by omega
        rw [this]; rfl
      · rw [if_neg hlt, if_neg hj, if_neg (by omega)]

theorem Memory.length_readBytes (m : Memory) (i n : Nat) : (m.readBytes i n).length = n := by
  simp [Memory.readBytes]

theorem Memory.byteAt_readBytes (m : Memory) (i n k : Nat) :
    byteAt (m.readBytes i n) k = if k < n then m.read (i + k) else 0 := by
  by_cases hk : k < n
  · simp [byteAt, Memory.readBytes, List.getD, hk]
  · simp [byteAt, Memory.readBytes, List.getD, hk]

/-- Outside its buffer a memory reads as unlisted. -/
theorem Memory.read_above {size : Nat} {m : Memory} (hm : Memory.below size m = true) {i : Nat} (hi : size ≤ i) :
    m.read i = 0 := by
  induction m with
  | nil => rfl
  | cons c m ih =>
    obtain ⟨a, b⟩ := c
    simp only [Memory.below, List.all_cons, Bool.and_eq_true, decide_eq_true_eq] at hm ih
    rw [Memory.read, if_neg (by omega)]
    exact ih hm.2

/-- Two buffers in canonical form with the same bytes are the same data. -/
theorem Memory.ext_of_risesFrom {lo : Nat} {m m' : Memory} (hm : Memory.risesFrom lo m = true)
    (hm' : Memory.risesFrom lo m' = true) (h : ∀ i, m.read i = m'.read i) : m = m' := by
  induction m generalizing lo m' with
  | nil =>
    cases m' with
    | nil => rfl
    | cons c m' =>
      obtain ⟨a, b⟩ := c
      simp only [Memory.risesFrom, Bool.and_eq_true, decide_eq_true_eq] at hm'
      have := h a
      simp only [Memory.read, if_true] at this
      exact absurd this.symm hm'.1.2
  | cons c m ih =>
    obtain ⟨a, b⟩ := c
    simp only [Memory.risesFrom, Bool.and_eq_true, decide_eq_true_eq] at hm
    cases m' with
    | nil =>
      have := h a
      simp only [Memory.read, if_true] at this
      exact absurd this hm.1.2
    | cons c' m' =>
      obtain ⟨a', b'⟩ := c'
      simp only [Memory.risesFrom, Bool.and_eq_true, decide_eq_true_eq] at hm'
      have haa : a = a' := by
        by_contra hne
        rcases Nat.lt_or_gt_of_ne hne with hlt | hlt
        · have := h a
          rw [Memory.read, if_pos rfl, Memory.read, if_neg (by omega), Memory.read_below hm'.2 (by omega)] at this
          exact hm.1.2 this
        · have := h a'
          rw [Memory.read, if_neg (by omega), Memory.read_below hm.2 (by omega), Memory.read, if_pos rfl] at this
          exact hm'.1.2 this.symm
      subst haa
      have hb : b = b' := by simpa [Memory.read] using h a
      subst hb
      congr 1
      refine ih hm.2 hm'.2 fun i => ?_
      by_cases hi : a = i
      · subst hi
        rw [Memory.read_below hm.2 (by omega), Memory.read_below hm'.2 (by omega)]
      · simpa [Memory.read, hi] using h i

end Sys2Proof.Machine
end

