-- ==== Sys2Proof/Laws/State.lean ====
section
/-! SUPPORT. One lemma per field per named update of the state, so that no later proof unfolds a record update. -/

namespace Sys2Proof.Machine

/-! ### Changing the block -/

@[simp] theorem onBlock_block (f : Block → Block) (s : State) : (s.onBlock f).block = f s.block := rfl
@[simp] theorem onBlock_rdata (f : Block → Block) (s : State) : (s.onBlock f).rdata = s.rdata := rfl
@[simp] theorem onBlock_turns (f : Block → Block) (s : State) : (s.onBlock f).turns = s.turns := rfl
@[simp] theorem resetBlock_block (s : State) : (resetBlock s).block = Block.reset := rfl
@[simp] theorem resetBlock_rdata (s : State) : (resetBlock s).rdata = s.rdata := rfl
@[simp] theorem resetBlock_turns (s : State) : (resetBlock s).turns = s.turns := rfl

/-! ### Raising an error -/

@[simp] theorem raiseError_alg (e : ErrorFlag) (b : Block) : (raiseError e b).alg = b.alg := by
  cases e <;> rfl
@[simp] theorem raiseError_digits (e : ErrorFlag) (b : Block) : (raiseError e b).digits = b.digits := by
  cases e <;> rfl
@[simp] theorem raiseError_intEn (e : ErrorFlag) (b : Block) : (raiseError e b).intEn = b.intEn := by
  cases e <;> rfl
@[simp] theorem raiseError_ctr (e : ErrorFlag) (b : Block) : (raiseError e b).ctr = b.ctr := by
  cases e <;> rfl
@[simp] theorem raiseError_key (e : ErrorFlag) (b : Block) : (raiseError e b).key = b.key := by
  cases e <;> rfl
@[simp] theorem raiseError_keyLen (e : ErrorFlag) (b : Block) : (raiseError e b).keyLen = b.keyLen := by
  cases e <;> rfl
@[simp] theorem raiseError_dg (e : ErrorFlag) (b : Block) : (raiseError e b).dg = b.dg := by
  cases e <;> rfl
@[simp] theorem raiseError_value (e : ErrorFlag) (b : Block) : (raiseError e b).value = b.value := by
  cases e <;> rfl
@[simp] theorem raiseError_offset (e : ErrorFlag) (b : Block) : (raiseError e b).offset = b.offset := by
  cases e <;> rfl
@[simp] theorem raiseError_dig (e : ErrorFlag) (b : Block) : (raiseError e b).dig = b.dig := by
  cases e <;> rfl
@[simp] theorem raiseError_pwdLen (e : ErrorFlag) (b : Block) : (raiseError e b).pwdLen = b.pwdLen := by
  cases e <;> rfl
@[simp] theorem raiseError_busy (e : ErrorFlag) (b : Block) : (raiseError e b).busy = b.busy := by
  cases e <;> rfl
@[simp] theorem raiseError_opl (e : ErrorFlag) (b : Block) : (raiseError e b).opl = b.opl := by
  cases e <;> rfl
@[simp] theorem raiseError_done (e : ErrorFlag) (b : Block) : (raiseError e b).done = (b.done || e.setsDone) := by
  cases e <;> simp [raiseError, setError, ErrorFlag.setsDone]

/-- Raising an error sets its flag and no other. -/
@[simp] theorem errorBit_raiseError (e e' : ErrorFlag) (b : Block) :
    errorBit (raiseError e b) e' = (errorBit b e' || decide (e = e')) := by
  cases e <;> cases e' <;> simp [raiseError, setError, errorBit, ErrorFlag.setsDone]

/-! ### `accept` -/

@[simp] theorem accept_alg (op : Opc) (b : Block) : (accept op b).alg = b.alg := rfl
@[simp] theorem accept_digits (op : Opc) (b : Block) : (accept op b).digits = b.digits := rfl
@[simp] theorem accept_intEn (op : Opc) (b : Block) : (accept op b).intEn = b.intEn := rfl
@[simp] theorem accept_ctr (op : Opc) (b : Block) : (accept op b).ctr = b.ctr := rfl
@[simp] theorem accept_key (op : Opc) (b : Block) : (accept op b).key = b.key := rfl
@[simp] theorem accept_keyLen (op : Opc) (b : Block) : (accept op b).keyLen = b.keyLen := rfl
@[simp] theorem accept_dg (op : Opc) (b : Block) : (accept op b).dg = b.dg := rfl
@[simp] theorem accept_value (op : Opc) (b : Block) : (accept op b).value = b.value := rfl
@[simp] theorem accept_offset (op : Opc) (b : Block) : (accept op b).offset = b.offset := rfl
@[simp] theorem accept_dig (op : Opc) (b : Block) : (accept op b).dig = b.dig := rfl
@[simp] theorem accept_pwdLen (op : Opc) (b : Block) : (accept op b).pwdLen = b.pwdLen := rfl
@[simp] theorem accept_busy (op : Opc) (b : Block) : (accept op b).busy = true := rfl
@[simp] theorem accept_done (op : Opc) (b : Block) : (accept op b).done = false := rfl
@[simp] theorem accept_errCfg (op : Opc) (b : Block) : (accept op b).errCfg = b.errCfg := rfl
@[simp] theorem accept_errKeyEmpty (op : Opc) (b : Block) : (accept op b).errKeyEmpty = b.errKeyEmpty := rfl
@[simp] theorem accept_errKeyOvf (op : Opc) (b : Block) : (accept op b).errKeyOvf = b.errKeyOvf := rfl
@[simp] theorem accept_errOpcode (op : Opc) (b : Block) : (accept op b).errOpcode = b.errOpcode := rfl
@[simp] theorem accept_errBusy (op : Opc) (b : Block) : (accept op b).errBusy = b.errBusy := rfl
@[simp] theorem accept_opl (op : Opc) (b : Block) : (accept op b).opl = op := rfl

/-! ### `finish` -/

@[simp] theorem finish_alg (b : Block) : (finish b).alg = b.alg := rfl
@[simp] theorem finish_digits (b : Block) : (finish b).digits = b.digits := rfl
@[simp] theorem finish_intEn (b : Block) : (finish b).intEn = b.intEn := rfl
@[simp] theorem finish_ctr (b : Block) : (finish b).ctr = b.ctr := rfl
@[simp] theorem finish_key (b : Block) : (finish b).key = b.key := rfl
@[simp] theorem finish_keyLen (b : Block) : (finish b).keyLen = b.keyLen := rfl
@[simp] theorem finish_dg (b : Block) : (finish b).dg = b.dg := rfl
@[simp] theorem finish_value (b : Block) : (finish b).value = b.value := rfl
@[simp] theorem finish_offset (b : Block) : (finish b).offset = b.offset := rfl
@[simp] theorem finish_dig (b : Block) : (finish b).dig = b.dig := rfl
@[simp] theorem finish_pwdLen (b : Block) : (finish b).pwdLen = b.pwdLen := rfl
@[simp] theorem finish_busy (b : Block) : (finish b).busy = false := rfl
@[simp] theorem finish_done (b : Block) : (finish b).done = true := rfl
@[simp] theorem finish_errCfg (b : Block) : (finish b).errCfg = b.errCfg := rfl
@[simp] theorem finish_errKeyEmpty (b : Block) : (finish b).errKeyEmpty = b.errKeyEmpty := rfl
@[simp] theorem finish_errKeyOvf (b : Block) : (finish b).errKeyOvf = b.errKeyOvf := rfl
@[simp] theorem finish_errOpcode (b : Block) : (finish b).errOpcode = b.errOpcode := rfl
@[simp] theorem finish_errBusy (b : Block) : (finish b).errBusy = b.errBusy := rfl
@[simp] theorem finish_opl (b : Block) : (finish b).opl = b.opl := rfl

/-! ### `ackStatus` -/

@[simp] theorem ackStatus_alg (data : Word) (b : Block) : (ackStatus data b).alg = b.alg := rfl
@[simp] theorem ackStatus_digits (data : Word) (b : Block) : (ackStatus data b).digits = b.digits := rfl
@[simp] theorem ackStatus_intEn (data : Word) (b : Block) : (ackStatus data b).intEn = b.intEn := rfl
@[simp] theorem ackStatus_ctr (data : Word) (b : Block) : (ackStatus data b).ctr = b.ctr := rfl
@[simp] theorem ackStatus_key (data : Word) (b : Block) : (ackStatus data b).key = b.key := rfl
@[simp] theorem ackStatus_keyLen (data : Word) (b : Block) : (ackStatus data b).keyLen = b.keyLen := rfl
@[simp] theorem ackStatus_dg (data : Word) (b : Block) : (ackStatus data b).dg = b.dg := rfl
@[simp] theorem ackStatus_value (data : Word) (b : Block) : (ackStatus data b).value = b.value := rfl
@[simp] theorem ackStatus_offset (data : Word) (b : Block) : (ackStatus data b).offset = b.offset := rfl
@[simp] theorem ackStatus_dig (data : Word) (b : Block) : (ackStatus data b).dig = b.dig := rfl
@[simp] theorem ackStatus_pwdLen (data : Word) (b : Block) : (ackStatus data b).pwdLen = b.pwdLen := rfl
@[simp] theorem ackStatus_busy (data : Word) (b : Block) : (ackStatus data b).busy = b.busy := rfl
@[simp] theorem ackStatus_done (data : Word) (b : Block) : (ackStatus data b).done = w1c b.done data 1 := rfl
@[simp] theorem ackStatus_errCfg (data : Word) (b : Block) : (ackStatus data b).errCfg = w1c b.errCfg data 8 := rfl
@[simp] theorem ackStatus_errKeyEmpty (data : Word) (b : Block) :
    (ackStatus data b).errKeyEmpty = w1c b.errKeyEmpty data 9 := rfl
@[simp] theorem ackStatus_errKeyOvf (data : Word) (b : Block) :
    (ackStatus data b).errKeyOvf = w1c b.errKeyOvf data 10 := rfl
@[simp] theorem ackStatus_errOpcode (data : Word) (b : Block) :
    (ackStatus data b).errOpcode = w1c b.errOpcode data 11 := rfl
@[simp] theorem ackStatus_errBusy (data : Word) (b : Block) : (ackStatus data b).errBusy = w1c b.errBusy data 12 := rfl
@[simp] theorem ackStatus_opl (data : Word) (b : Block) : (ackStatus data b).opl = b.opl := rfl

/-! ### `setCtrHi` -/

@[simp] theorem setCtrHi_alg (data : Word) (b : Block) : (setCtrHi data b).alg = b.alg := rfl
@[simp] theorem setCtrHi_digits (data : Word) (b : Block) : (setCtrHi data b).digits = b.digits := rfl
@[simp] theorem setCtrHi_intEn (data : Word) (b : Block) : (setCtrHi data b).intEn = b.intEn := rfl
@[simp] theorem setCtrHi_key (data : Word) (b : Block) : (setCtrHi data b).key = b.key := rfl
@[simp] theorem setCtrHi_keyLen (data : Word) (b : Block) : (setCtrHi data b).keyLen = b.keyLen := rfl
@[simp] theorem setCtrHi_dg (data : Word) (b : Block) : (setCtrHi data b).dg = b.dg := rfl
@[simp] theorem setCtrHi_value (data : Word) (b : Block) : (setCtrHi data b).value = b.value := rfl
@[simp] theorem setCtrHi_offset (data : Word) (b : Block) : (setCtrHi data b).offset = b.offset := rfl
@[simp] theorem setCtrHi_dig (data : Word) (b : Block) : (setCtrHi data b).dig = b.dig := rfl
@[simp] theorem setCtrHi_pwdLen (data : Word) (b : Block) : (setCtrHi data b).pwdLen = b.pwdLen := rfl
@[simp] theorem setCtrHi_busy (data : Word) (b : Block) : (setCtrHi data b).busy = b.busy := rfl
@[simp] theorem setCtrHi_done (data : Word) (b : Block) : (setCtrHi data b).done = b.done := rfl
@[simp] theorem setCtrHi_errCfg (data : Word) (b : Block) : (setCtrHi data b).errCfg = b.errCfg := rfl
@[simp] theorem setCtrHi_errKeyEmpty (data : Word) (b : Block) : (setCtrHi data b).errKeyEmpty = b.errKeyEmpty := rfl
@[simp] theorem setCtrHi_errKeyOvf (data : Word) (b : Block) : (setCtrHi data b).errKeyOvf = b.errKeyOvf := rfl
@[simp] theorem setCtrHi_errOpcode (data : Word) (b : Block) : (setCtrHi data b).errOpcode = b.errOpcode := rfl
@[simp] theorem setCtrHi_errBusy (data : Word) (b : Block) : (setCtrHi data b).errBusy = b.errBusy := rfl
@[simp] theorem setCtrHi_opl (data : Word) (b : Block) : (setCtrHi data b).opl = b.opl := rfl

/-! ### `setCtrLo` -/

@[simp] theorem setCtrLo_alg (data : Word) (b : Block) : (setCtrLo data b).alg = b.alg := rfl
@[simp] theorem setCtrLo_digits (data : Word) (b : Block) : (setCtrLo data b).digits = b.digits := rfl
@[simp] theorem setCtrLo_intEn (data : Word) (b : Block) : (setCtrLo data b).intEn = b.intEn := rfl
@[simp] theorem setCtrLo_key (data : Word) (b : Block) : (setCtrLo data b).key = b.key := rfl
@[simp] theorem setCtrLo_keyLen (data : Word) (b : Block) : (setCtrLo data b).keyLen = b.keyLen := rfl
@[simp] theorem setCtrLo_dg (data : Word) (b : Block) : (setCtrLo data b).dg = b.dg := rfl
@[simp] theorem setCtrLo_value (data : Word) (b : Block) : (setCtrLo data b).value = b.value := rfl
@[simp] theorem setCtrLo_offset (data : Word) (b : Block) : (setCtrLo data b).offset = b.offset := rfl
@[simp] theorem setCtrLo_dig (data : Word) (b : Block) : (setCtrLo data b).dig = b.dig := rfl
@[simp] theorem setCtrLo_pwdLen (data : Word) (b : Block) : (setCtrLo data b).pwdLen = b.pwdLen := rfl
@[simp] theorem setCtrLo_busy (data : Word) (b : Block) : (setCtrLo data b).busy = b.busy := rfl
@[simp] theorem setCtrLo_done (data : Word) (b : Block) : (setCtrLo data b).done = b.done := rfl
@[simp] theorem setCtrLo_errCfg (data : Word) (b : Block) : (setCtrLo data b).errCfg = b.errCfg := rfl
@[simp] theorem setCtrLo_errKeyEmpty (data : Word) (b : Block) : (setCtrLo data b).errKeyEmpty = b.errKeyEmpty := rfl
@[simp] theorem setCtrLo_errKeyOvf (data : Word) (b : Block) : (setCtrLo data b).errKeyOvf = b.errKeyOvf := rfl
@[simp] theorem setCtrLo_errOpcode (data : Word) (b : Block) : (setCtrLo data b).errOpcode = b.errOpcode := rfl
@[simp] theorem setCtrLo_errBusy (data : Word) (b : Block) : (setCtrLo data b).errBusy = b.errBusy := rfl
@[simp] theorem setCtrLo_opl (data : Word) (b : Block) : (setCtrLo data b).opl = b.opl := rfl

/-! ### `setValue` -/

@[simp] theorem setValue_alg (data : Word) (b : Block) : (setValue data b).alg = b.alg := rfl
@[simp] theorem setValue_digits (data : Word) (b : Block) : (setValue data b).digits = b.digits := rfl
@[simp] theorem setValue_intEn (data : Word) (b : Block) : (setValue data b).intEn = b.intEn := rfl
@[simp] theorem setValue_ctr (data : Word) (b : Block) : (setValue data b).ctr = b.ctr := rfl
@[simp] theorem setValue_key (data : Word) (b : Block) : (setValue data b).key = b.key := rfl
@[simp] theorem setValue_keyLen (data : Word) (b : Block) : (setValue data b).keyLen = b.keyLen := rfl
@[simp] theorem setValue_dg (data : Word) (b : Block) : (setValue data b).dg = b.dg := rfl
@[simp] theorem setValue_value (data : Word) (b : Block) : (setValue data b).value = data.extractLsb' 0 31 := rfl
@[simp] theorem setValue_offset (data : Word) (b : Block) : (setValue data b).offset = b.offset := rfl
@[simp] theorem setValue_dig (data : Word) (b : Block) : (setValue data b).dig = b.dig := rfl
@[simp] theorem setValue_pwdLen (data : Word) (b : Block) : (setValue data b).pwdLen = b.pwdLen := rfl
@[simp] theorem setValue_busy (data : Word) (b : Block) : (setValue data b).busy = b.busy := rfl
@[simp] theorem setValue_done (data : Word) (b : Block) : (setValue data b).done = b.done := rfl
@[simp] theorem setValue_errCfg (data : Word) (b : Block) : (setValue data b).errCfg = b.errCfg := rfl
@[simp] theorem setValue_errKeyEmpty (data : Word) (b : Block) : (setValue data b).errKeyEmpty = b.errKeyEmpty := rfl
@[simp] theorem setValue_errKeyOvf (data : Word) (b : Block) : (setValue data b).errKeyOvf = b.errKeyOvf := rfl
@[simp] theorem setValue_errOpcode (data : Word) (b : Block) : (setValue data b).errOpcode = b.errOpcode := rfl
@[simp] theorem setValue_errBusy (data : Word) (b : Block) : (setValue data b).errBusy = b.errBusy := rfl
@[simp] theorem setValue_opl (data : Word) (b : Block) : (setValue data b).opl = b.opl := rfl

/-! ### `setDigestWord` -/

@[simp] theorem setDigestWord_alg (k : BitVec 4) (data : Word) (b : Block) : (setDigestWord k data b).alg = b.alg := rfl
@[simp] theorem setDigestWord_digits (k : BitVec 4) (data : Word) (b : Block) :
    (setDigestWord k data b).digits = b.digits := rfl
@[simp] theorem setDigestWord_intEn (k : BitVec 4) (data : Word) (b : Block) :
    (setDigestWord k data b).intEn = b.intEn := rfl
@[simp] theorem setDigestWord_ctr (k : BitVec 4) (data : Word) (b : Block) : (setDigestWord k data b).ctr = b.ctr := rfl
@[simp] theorem setDigestWord_key (k : BitVec 4) (data : Word) (b : Block) : (setDigestWord k data b).key = b.key := rfl
@[simp] theorem setDigestWord_keyLen (k : BitVec 4) (data : Word) (b : Block) :
    (setDigestWord k data b).keyLen = b.keyLen := rfl
@[simp] theorem setDigestWord_dg (k : BitVec 4) (data : Word) (b : Block) :
    (setDigestWord k data b).dg = b.dg.writeBytes (4 * k.toNat) (bytesBe data 4) := rfl
@[simp] theorem setDigestWord_value (k : BitVec 4) (data : Word) (b : Block) :
    (setDigestWord k data b).value = b.value := rfl
@[simp] theorem setDigestWord_offset (k : BitVec 4) (data : Word) (b : Block) :
    (setDigestWord k data b).offset = b.offset := rfl
@[simp] theorem setDigestWord_dig (k : BitVec 4) (data : Word) (b : Block) : (setDigestWord k data b).dig = b.dig := rfl
@[simp] theorem setDigestWord_pwdLen (k : BitVec 4) (data : Word) (b : Block) :
    (setDigestWord k data b).pwdLen = b.pwdLen := rfl
@[simp] theorem setDigestWord_busy (k : BitVec 4) (data : Word) (b : Block) :
    (setDigestWord k data b).busy = b.busy := rfl
@[simp] theorem setDigestWord_done (k : BitVec 4) (data : Word) (b : Block) :
    (setDigestWord k data b).done = b.done := rfl
@[simp] theorem setDigestWord_errCfg (k : BitVec 4) (data : Word) (b : Block) :
    (setDigestWord k data b).errCfg = b.errCfg := rfl
@[simp] theorem setDigestWord_errKeyEmpty (k : BitVec 4) (data : Word) (b : Block) :
    (setDigestWord k data b).errKeyEmpty = b.errKeyEmpty := rfl
@[simp] theorem setDigestWord_errKeyOvf (k : BitVec 4) (data : Word) (b : Block) :
    (setDigestWord k data b).errKeyOvf = b.errKeyOvf := rfl
@[simp] theorem setDigestWord_errOpcode (k : BitVec 4) (data : Word) (b : Block) :
    (setDigestWord k data b).errOpcode = b.errOpcode := rfl
@[simp] theorem setDigestWord_errBusy (k : BitVec 4) (data : Word) (b : Block) :
    (setDigestWord k data b).errBusy = b.errBusy := rfl
@[simp] theorem setDigestWord_opl (k : BitVec 4) (data : Word) (b : Block) : (setDigestWord k data b).opl = b.opl := rfl

/-! ### `setDigest` -/

@[simp] theorem setDigest_alg (alg : Alg) (d : List Byte) (b : Block) : (setDigest alg d b).alg = b.alg := rfl
@[simp] theorem setDigest_digits (alg : Alg) (d : List Byte) (b : Block) : (setDigest alg d b).digits = b.digits := rfl
@[simp] theorem setDigest_intEn (alg : Alg) (d : List Byte) (b : Block) : (setDigest alg d b).intEn = b.intEn := rfl
@[simp] theorem setDigest_ctr (alg : Alg) (d : List Byte) (b : Block) : (setDigest alg d b).ctr = b.ctr := rfl
@[simp] theorem setDigest_key (alg : Alg) (d : List Byte) (b : Block) : (setDigest alg d b).key = b.key := rfl
@[simp] theorem setDigest_keyLen (alg : Alg) (d : List Byte) (b : Block) : (setDigest alg d b).keyLen = b.keyLen := rfl
@[simp] theorem setDigest_value (alg : Alg) (d : List Byte) (b : Block) : (setDigest alg d b).value = b.value := rfl
@[simp] theorem setDigest_offset (alg : Alg) (d : List Byte) (b : Block) : (setDigest alg d b).offset = b.offset := rfl
@[simp] theorem setDigest_dig (alg : Alg) (d : List Byte) (b : Block) : (setDigest alg d b).dig = b.dig := rfl
@[simp] theorem setDigest_pwdLen (alg : Alg) (d : List Byte) (b : Block) : (setDigest alg d b).pwdLen = b.pwdLen := rfl
@[simp] theorem setDigest_busy (alg : Alg) (d : List Byte) (b : Block) : (setDigest alg d b).busy = b.busy := rfl
@[simp] theorem setDigest_done (alg : Alg) (d : List Byte) (b : Block) : (setDigest alg d b).done = b.done := rfl
@[simp] theorem setDigest_errCfg (alg : Alg) (d : List Byte) (b : Block) : (setDigest alg d b).errCfg = b.errCfg := rfl
@[simp] theorem setDigest_errKeyEmpty (alg : Alg) (d : List Byte) (b : Block) :
    (setDigest alg d b).errKeyEmpty = b.errKeyEmpty := rfl
@[simp] theorem setDigest_errKeyOvf (alg : Alg) (d : List Byte) (b : Block) :
    (setDigest alg d b).errKeyOvf = b.errKeyOvf := rfl
@[simp] theorem setDigest_errOpcode (alg : Alg) (d : List Byte) (b : Block) :
    (setDigest alg d b).errOpcode = b.errOpcode := rfl
@[simp] theorem setDigest_errBusy (alg : Alg) (d : List Byte) (b : Block) :
    (setDigest alg d b).errBusy = b.errBusy := rfl
@[simp] theorem setDigest_opl (alg : Alg) (d : List Byte) (b : Block) : (setDigest alg d b).opl = b.opl := rfl

/-! ### `effectHmac` -/

@[simp] theorem effectHmac_alg (b : Block) : (effectHmac b).alg = b.alg := setDigest_alg ..
@[simp] theorem effectHmac_digits (b : Block) : (effectHmac b).digits = b.digits := setDigest_digits ..
@[simp] theorem effectHmac_intEn (b : Block) : (effectHmac b).intEn = b.intEn := setDigest_intEn ..
@[simp] theorem effectHmac_ctr (b : Block) : (effectHmac b).ctr = b.ctr := setDigest_ctr ..
@[simp] theorem effectHmac_key (b : Block) : (effectHmac b).key = b.key := setDigest_key ..
@[simp] theorem effectHmac_keyLen (b : Block) : (effectHmac b).keyLen = b.keyLen := setDigest_keyLen ..
@[simp] theorem effectHmac_value (b : Block) : (effectHmac b).value = b.value := setDigest_value ..
@[simp] theorem effectHmac_offset (b : Block) : (effectHmac b).offset = b.offset := setDigest_offset ..
@[simp] theorem effectHmac_dig (b : Block) : (effectHmac b).dig = b.dig := setDigest_dig ..
@[simp] theorem effectHmac_pwdLen (b : Block) : (effectHmac b).pwdLen = b.pwdLen := setDigest_pwdLen ..
@[simp] theorem effectHmac_busy (b : Block) : (effectHmac b).busy = b.busy := setDigest_busy ..
@[simp] theorem effectHmac_done (b : Block) : (effectHmac b).done = b.done := setDigest_done ..
@[simp] theorem effectHmac_errCfg (b : Block) : (effectHmac b).errCfg = b.errCfg := setDigest_errCfg ..
@[simp] theorem effectHmac_errKeyEmpty (b : Block) :
    (effectHmac b).errKeyEmpty = b.errKeyEmpty := setDigest_errKeyEmpty ..
@[simp] theorem effectHmac_errKeyOvf (b : Block) : (effectHmac b).errKeyOvf = b.errKeyOvf := setDigest_errKeyOvf ..
@[simp] theorem effectHmac_errOpcode (b : Block) : (effectHmac b).errOpcode = b.errOpcode := setDigest_errOpcode ..
@[simp] theorem effectHmac_errBusy (b : Block) : (effectHmac b).errBusy = b.errBusy := setDigest_errBusy ..
@[simp] theorem effectHmac_opl (b : Block) : (effectHmac b).opl = b.opl := setDigest_opl ..

/-! ### `effectTrunc` -/

@[simp] theorem effectTrunc_alg (b : Block) : (effectTrunc b).alg = b.alg := rfl
@[simp] theorem effectTrunc_digits (b : Block) : (effectTrunc b).digits = b.digits := rfl
@[simp] theorem effectTrunc_intEn (b : Block) : (effectTrunc b).intEn = b.intEn := rfl
@[simp] theorem effectTrunc_ctr (b : Block) : (effectTrunc b).ctr = b.ctr := rfl
@[simp] theorem effectTrunc_key (b : Block) : (effectTrunc b).key = b.key := rfl
@[simp] theorem effectTrunc_keyLen (b : Block) : (effectTrunc b).keyLen = b.keyLen := rfl
@[simp] theorem effectTrunc_dg (b : Block) : (effectTrunc b).dg = b.dg := rfl
@[simp] theorem effectTrunc_value (b : Block) : (effectTrunc b).value = (dynamicTruncation (digestBytes b)).2 := rfl
@[simp] theorem effectTrunc_offset (b : Block) : (effectTrunc b).offset = (dynamicTruncation (digestBytes b)).1 := rfl
@[simp] theorem effectTrunc_dig (b : Block) : (effectTrunc b).dig = b.dig := rfl
@[simp] theorem effectTrunc_pwdLen (b : Block) : (effectTrunc b).pwdLen = b.pwdLen := rfl
@[simp] theorem effectTrunc_busy (b : Block) : (effectTrunc b).busy = b.busy := rfl
@[simp] theorem effectTrunc_done (b : Block) : (effectTrunc b).done = b.done := rfl
@[simp] theorem effectTrunc_errCfg (b : Block) : (effectTrunc b).errCfg = b.errCfg := rfl
@[simp] theorem effectTrunc_errKeyEmpty (b : Block) : (effectTrunc b).errKeyEmpty = b.errKeyEmpty := rfl
@[simp] theorem effectTrunc_errKeyOvf (b : Block) : (effectTrunc b).errKeyOvf = b.errKeyOvf := rfl
@[simp] theorem effectTrunc_errOpcode (b : Block) : (effectTrunc b).errOpcode = b.errOpcode := rfl
@[simp] theorem effectTrunc_errBusy (b : Block) : (effectTrunc b).errBusy = b.errBusy := rfl
@[simp] theorem effectTrunc_opl (b : Block) : (effectTrunc b).opl = b.opl := rfl

/-! ### `effectRender` -/

@[simp] theorem effectRender_alg (b : Block) : (effectRender b).alg = b.alg := by
  simp only [effectRender]
@[simp] theorem effectRender_digits (b : Block) : (effectRender b).digits = b.digits := by
  simp only [effectRender]
@[simp] theorem effectRender_intEn (b : Block) : (effectRender b).intEn = b.intEn := by
  simp only [effectRender]
@[simp] theorem effectRender_ctr (b : Block) : (effectRender b).ctr = b.ctr := by
  simp only [effectRender]
@[simp] theorem effectRender_key (b : Block) : (effectRender b).key = b.key := by
  simp only [effectRender]
@[simp] theorem effectRender_keyLen (b : Block) : (effectRender b).keyLen = b.keyLen := by
  simp only [effectRender]
@[simp] theorem effectRender_dg (b : Block) : (effectRender b).dg = b.dg := by
  simp only [effectRender]
@[simp] theorem effectRender_value (b : Block) : (effectRender b).value = b.value := by
  simp only [effectRender]
@[simp] theorem effectRender_offset (b : Block) : (effectRender b).offset = b.offset := by
  simp only [effectRender]
@[simp] theorem effectRender_pwdLen (b : Block) : (effectRender b).pwdLen = b.digits := by
  simp only [effectRender]
@[simp] theorem effectRender_busy (b : Block) : (effectRender b).busy = b.busy := by
  simp only [effectRender]
@[simp] theorem effectRender_done (b : Block) : (effectRender b).done = b.done := by
  simp only [effectRender]
@[simp] theorem effectRender_errCfg (b : Block) : (effectRender b).errCfg = b.errCfg := by
  simp only [effectRender]
@[simp] theorem effectRender_errKeyEmpty (b : Block) : (effectRender b).errKeyEmpty = b.errKeyEmpty := by
  simp only [effectRender]
@[simp] theorem effectRender_errKeyOvf (b : Block) : (effectRender b).errKeyOvf = b.errKeyOvf := by
  simp only [effectRender]
@[simp] theorem effectRender_errOpcode (b : Block) : (effectRender b).errOpcode = b.errOpcode := by
  simp only [effectRender]
@[simp] theorem effectRender_errBusy (b : Block) : (effectRender b).errBusy = b.errBusy := by
  simp only [effectRender]
@[simp] theorem effectRender_opl (b : Block) : (effectRender b).opl = b.opl := by
  simp only [effectRender]

/-! ### `effectKeyclr` -/

@[simp] theorem effectKeyclr_alg (b : Block) : (effectKeyclr b).alg = b.alg := rfl
@[simp] theorem effectKeyclr_digits (b : Block) : (effectKeyclr b).digits = b.digits := rfl
@[simp] theorem effectKeyclr_intEn (b : Block) : (effectKeyclr b).intEn = b.intEn := rfl
@[simp] theorem effectKeyclr_ctr (b : Block) : (effectKeyclr b).ctr = b.ctr := rfl
@[simp] theorem effectKeyclr_key (b : Block) : (effectKeyclr b).key = [] := rfl
@[simp] theorem effectKeyclr_keyLen (b : Block) : (effectKeyclr b).keyLen = 0 := rfl
@[simp] theorem effectKeyclr_dg (b : Block) : (effectKeyclr b).dg = b.dg := rfl
@[simp] theorem effectKeyclr_value (b : Block) : (effectKeyclr b).value = b.value := rfl
@[simp] theorem effectKeyclr_offset (b : Block) : (effectKeyclr b).offset = b.offset := rfl
@[simp] theorem effectKeyclr_dig (b : Block) : (effectKeyclr b).dig = b.dig := rfl
@[simp] theorem effectKeyclr_pwdLen (b : Block) : (effectKeyclr b).pwdLen = b.pwdLen := rfl
@[simp] theorem effectKeyclr_busy (b : Block) : (effectKeyclr b).busy = b.busy := rfl
@[simp] theorem effectKeyclr_done (b : Block) : (effectKeyclr b).done = b.done := rfl
@[simp] theorem effectKeyclr_errCfg (b : Block) : (effectKeyclr b).errCfg = b.errCfg := rfl
@[simp] theorem effectKeyclr_errKeyEmpty (b : Block) : (effectKeyclr b).errKeyEmpty = b.errKeyEmpty := rfl
@[simp] theorem effectKeyclr_errKeyOvf (b : Block) : (effectKeyclr b).errKeyOvf = b.errKeyOvf := rfl
@[simp] theorem effectKeyclr_errOpcode (b : Block) : (effectKeyclr b).errOpcode = b.errOpcode := rfl
@[simp] theorem effectKeyclr_errBusy (b : Block) : (effectKeyclr b).errBusy = b.errBusy := rfl
@[simp] theorem effectKeyclr_opl (b : Block) : (effectKeyclr b).opl = b.opl := rfl

/-! ### `effectZeroize` -/

@[simp] theorem effectZeroize_alg (b : Block) : (effectZeroize b).alg = b.alg := rfl
@[simp] theorem effectZeroize_digits (b : Block) : (effectZeroize b).digits = b.digits := rfl
@[simp] theorem effectZeroize_intEn (b : Block) : (effectZeroize b).intEn = b.intEn := rfl
@[simp] theorem effectZeroize_ctr (b : Block) : (effectZeroize b).ctr = 0 := rfl
@[simp] theorem effectZeroize_key (b : Block) : (effectZeroize b).key = [] := rfl
@[simp] theorem effectZeroize_keyLen (b : Block) : (effectZeroize b).keyLen = 0 := rfl
@[simp] theorem effectZeroize_dg (b : Block) : (effectZeroize b).dg = [] := rfl
@[simp] theorem effectZeroize_value (b : Block) : (effectZeroize b).value = 0 := rfl
@[simp] theorem effectZeroize_offset (b : Block) : (effectZeroize b).offset = 0 := rfl
@[simp] theorem effectZeroize_dig (b : Block) : (effectZeroize b).dig = Vector.replicate 16 0 := rfl
@[simp] theorem effectZeroize_pwdLen (b : Block) : (effectZeroize b).pwdLen = 0 := rfl
@[simp] theorem effectZeroize_busy (b : Block) : (effectZeroize b).busy = b.busy := rfl
@[simp] theorem effectZeroize_done (b : Block) : (effectZeroize b).done = b.done := rfl
@[simp] theorem effectZeroize_errCfg (b : Block) : (effectZeroize b).errCfg = b.errCfg := rfl
@[simp] theorem effectZeroize_errKeyEmpty (b : Block) : (effectZeroize b).errKeyEmpty = b.errKeyEmpty := rfl
@[simp] theorem effectZeroize_errKeyOvf (b : Block) : (effectZeroize b).errKeyOvf = b.errKeyOvf := rfl
@[simp] theorem effectZeroize_errOpcode (b : Block) : (effectZeroize b).errOpcode = b.errOpcode := rfl
@[simp] theorem effectZeroize_errBusy (b : Block) : (effectZeroize b).errBusy = b.errBusy := rfl
@[simp] theorem effectZeroize_opl (b : Block) : (effectZeroize b).opl = b.opl := rfl

end Sys2Proof.Machine
end

