-- ==== Sys2Proof/Laws/Step.lean ====
section
/-! SUPPORT. What one step can do, said once: the shared operations' next states, the form of every meaning, and the
inversion of `step`. -/

namespace Sys2Proof.Machine

/-! ### The shared operations -/

theorem hostRead_next (f : Block → Word) (s : State) : hostRead f s = .next { s with rdata := f s.block } := rfl

theorem hostWrite_next (f : Block → Block) (s : State) :
    hostWrite f s = .next { s with block := if s.block.busy then raiseError .busy s.block else f s.block } := rfl

theorem complete_next (f : Block → Block) (s : State) : complete f s = .next { s with block := finish (f s.block) } := rfl

theorem ignoredWrite_next (s : State) : ignoredWrite s = .next s := rfl

/-! ### The form of every meaning -/

/-- The effect of a command at Complete. -/
def effectOf : Opc → Block → Block
  | .nop => fun b => b
  | .keyclr => effectKeyclr
  | .hmac => effectHmac
  | .trunc => effectTrunc
  | .render => effectRender
  | .otp => effectOtp
  | .zeroize => effectZeroize

/-- A command's meaning is its effect and the end of Complete. -/
theorem exec_command (op : Opc) (s : State) :
    exec op.toInstr s = .next { s with block := finish (effectOf op s.block) } := by
  cases op <;> rfl

/-- What the writes of `WR_SET` do while idle, by header. -/
def registerWrite (hdr : Header) (data : Word) : Block → Block :=
  if hdr = 0x104#9 then writeCfg data
  else if hdr = 0x108#9 then issue data
  else if hdr = 0x110#9 then setCtrHi data
  else if hdr = 0x114#9 then setCtrLo data
  else if hdr = 0x118#9 then pushKey data
  else if hdr = 0x120#9 then setValue data
  else setDigestWord (Header.digestIndex hdr) data

/-- The headers of the writes of `WR_SET`. -/
def isRegisterWrite (hdr : Header) : Bool :=
  hdr = 0x104#9 || hdr = 0x108#9 || hdr = 0x110#9 || hdr = 0x114#9 || hdr = 0x118#9 || hdr = 0x120#9
    || hdr &&& 0x1C3#9 = 0x140#9

/-- What any host turn does to the block. -/
def hostEffect (hdr : Header) (data : Word) (b : Block) : Block :=
  if hdr = 0x10C#9 then ackStatus data b
  else if isRegisterWrite hdr then (if b.busy then raiseError .busy b else registerWrite hdr data b)
  else b

/-- The word a host turn reads; a write leaves what was read before. -/
def hostWord (hdr : Header) (b : Block) (old : Word) : Word :=
  if Header.we hdr then old
  else if hdr = 0x000#9 then idWord
  else if hdr = 0x004#9 then cfgWord b
  else if hdr = 0x00C#9 then statusWord b
  else if hdr = 0x010#9 then ctrHi b
  else if hdr = 0x014#9 then ctrLo b
  else if hdr = 0x01C#9 then keyLenWord b
  else if hdr = 0x020#9 then valueWord b
  else if hdr = 0x024#9 then rstatWord b
  else if hdr = 0x028#9 then bcdWord b 0
  else if hdr = 0x02C#9 then bcdWord b 8
  else if hdr &&& 0x1F3#9 = 0x030#9 then ascWord b (Header.ascIndex hdr)
  else if hdr &&& 0x1C3#9 = 0x040#9 then digestWord b (Header.digestIndex hdr)
  else 0

/-! ### The decoder's table -/

/-- A decoded header selects a row of the table, whose instruction is the answer. -/
theorem decodeBus_ok {hdr : Header} {data : Word} {i : Instr} (h : decodeBus hdr data = .ok i) :
    ∃ r ∈ busTable, r.selects hdr = true ∧ i = r.instr hdr data := by
  unfold decodeBus at h
  split at h
  · rename_i r hr
    injection h with h
    exact ⟨r, List.mem_of_find?_eq_some hr, by simpa using List.find?_some hr, h.symm⟩
  · simp at h

/-- The rows select exactly the headers whose low two bits are 0. -/
theorem some_row_selects : ∀ hdr : Header,
    (busTable.find? (BusRow.selects · hdr)).isSome = headerExists hdr := by
  decide +kernel

theorem decodeBus_total {hdr : Header} (h : headerExists hdr = true) (data : Word) :
    ∃ i, decodeBus hdr data = .ok i := by
  have := some_row_selects hdr
  rw [h] at this
  obtain ⟨r, hr⟩ := Option.isSome_iff_exists.mp this
  exact ⟨r.instr hdr data, by simp [decodeBus, hr]⟩

theorem decodeBus_none {hdr : Header} (h : headerExists hdr = false) (data : Word) :
    decodeBus hdr data = .error .noSuchHeader := by
  have := some_row_selects hdr
  rw [h] at this
  have hn : busTable.find? (BusRow.selects · hdr) = none := by simpa [← Option.isNone_iff_eq_none] using this
  simp [decodeBus, hn]

theorem headerExists_of_decodeBus {hdr : Header} {data : Word} {i : Instr} (h : decodeBus hdr data = .ok i) :
    headerExists hdr = true := by
  cases he : headerExists hdr
  · rw [decodeBus_none he] at h; simp at h
  · rfl

theorem full_mask (hdr : Header) : hdr &&& 0x1FF#9 = hdr := by
  have : (0x1FF#9) = BitVec.allOnes 9 := rfl
  rw [this, BitVec.and_allOnes]

/-- What a header of a row with an index field is not. -/
theorem indexed_header : ∀ hdr : Header,
    (hdr &&& 0x1F3#9 = 0x030#9 ∨ hdr &&& 0x1C3#9 = 0x040#9 ∨ hdr &&& 0x183#9 = 0x080#9 ∨ hdr &&& 0x1F3#9 = 0x130#9
      ∨ hdr &&& 0x1C3#9 = 0x140#9 ∨ hdr &&& 0x183#9 = 0x180#9) →
    hdr ∉ [0x000#9, 0x004#9, 0x00C#9, 0x010#9, 0x014#9, 0x01C#9, 0x020#9, 0x024#9, 0x028#9, 0x02C#9, 0x104#9, 0x108#9,
      0x10C#9, 0x110#9, 0x114#9, 0x118#9, 0x120#9] := by
  decide +kernel

theorem indexed_header_we : ∀ hdr : Header,
    (hdr &&& 0x1F3#9 = 0x030#9 → Header.we hdr = false ∧ isRegisterWrite hdr = false) ∧
    (hdr &&& 0x1C3#9 = 0x040#9 → Header.we hdr = false ∧ isRegisterWrite hdr = false ∧ hdr &&& 0x1F3#9 ≠ 0x030#9) ∧
    (hdr &&& 0x183#9 = 0x080#9 →
      Header.we hdr = false ∧ isRegisterWrite hdr = false ∧ hdr &&& 0x1F3#9 ≠ 0x030#9 ∧ hdr &&& 0x1C3#9 ≠ 0x040#9) ∧
    (hdr &&& 0x1F3#9 = 0x130#9 → Header.we hdr = true ∧ isRegisterWrite hdr = false) ∧
    (hdr &&& 0x1C3#9 = 0x140#9 → Header.we hdr = true ∧ isRegisterWrite hdr = true) ∧
    (hdr &&& 0x183#9 = 0x180#9 → Header.we hdr = true ∧ isRegisterWrite hdr = false) := by
  decide +kernel

/-- **The meaning of every transaction**: the decoded instruction does to the block what `hostEffect` says, and gives the
host the word that `hostWord` says. -/
theorem exec_decoded {hdr : Header} {data : Word} {i : Instr} (h : decodeBus hdr data = .ok i) (s : State) :
    exec i s = .next { s with block := hostEffect hdr data s.block, rdata := hostWord hdr s.block s.rdata } := by
  obtain ⟨r, hr, hsel, rfl⟩ := decodeBus_ok h
  have hw := indexed_header_we hdr
  have hx := indexed_header hdr
  simp only [busTable, readRows, writeRows, List.cons_append, List.nil_append, List.mem_cons, List.not_mem_nil,
    or_false] at hr
  rcases hr with rfl | rfl | rfl | rfl | rfl | rfl | rfl | rfl | rfl | rfl | rfl | rfl | rfl | rfl | rfl | rfl | rfl
    | rfl | rfl | rfl | rfl | rfl | rfl | rfl | rfl | rfl | rfl | rfl | rfl | rfl
  all_goals simp only [BusRow.selects, beq_iff_eq, full_mask] at hsel
  all_goals first
    | (subst hsel; rfl)
    | skip
  · obtain ⟨h1, h2⟩ := hw.1 hsel
    have := hx (.inl hsel)
    simp only [List.mem_cons, List.not_mem_nil, or_false, not_or] at this
    simp [exec, execRdPwdAsc, hostRead, hostEffect, hostWord, h1, h2, this, hsel]
  · obtain ⟨h1, h2, h3⟩ := hw.2.1 hsel
    have := hx (.inr (.inl hsel))
    simp only [List.mem_cons, List.not_mem_nil, or_false, not_or] at this
    simp [exec, execRdDigest, hostRead, hostEffect, hostWord, h1, h2, h3, this, hsel]
  · obtain ⟨h1, h2, h3, h4⟩ := hw.2.2.1 hsel
    have := hx (.inr (.inr (.inl hsel)))
    simp only [List.mem_cons, List.not_mem_nil, or_false, not_or] at this
    simp [exec, execRdRsvd, hostRead, hostEffect, hostWord, h1, h2, h3, h4, this]
  · obtain ⟨h1, h2⟩ := hw.2.2.2.1 hsel
    have := hx (.inr (.inr (.inr (.inl hsel))))
    simp only [List.mem_cons, List.not_mem_nil, or_false, not_or] at this
    simp [exec, execWrPwdAsc, ignoredWrite, hostEffect, hostWord, h1, h2, this]
  · obtain ⟨h1, h2⟩ := hw.2.2.2.2.1 hsel
    have := hx (.inr (.inr (.inr (.inr (.inl hsel)))))
    simp only [List.mem_cons, List.not_mem_nil, or_false, not_or] at this
    simp [exec, execWrDigest, hostWrite, State.onBlock, hostEffect, hostWord, registerWrite, h1, h2, this]
  · obtain ⟨h1, h2⟩ := hw.2.2.2.2.2 hsel
    have := hx (.inr (.inr (.inr (.inr (.inr hsel)))))
    simp only [List.mem_cons, List.not_mem_nil, or_false, not_or] at this
    simp [exec, execWrRsvd, ignoredWrite, hostEffect, hostWord, h1, h2, this]

/-! ### The step -/

/-- The sequencer has the turn: it is the next one, or no turn is left. -/
def sequencerTurn (s : State) : Prop := s.turns = [] ∨ ∃ rest, s.turns = .sequencer :: rest

theorem step_host {s : State} {hdr : Header} {data : Word} {rest : List Turn} (hs : s.turns = .host hdr data :: rest)
    (he : headerExists hdr = true) :
    step s = .next { block := hostEffect hdr data s.block, rdata := hostWord hdr s.block s.rdata, turns := rest } := by
  obtain ⟨i, hi⟩ := decodeBus_total he data
  have : fetch s = .run i { s with turns := rest } := by simp [fetch, nextTurn, hs, fetchHost, decode, hi]
  rw [step, this]
  exact exec_decoded hi _

theorem step_sequencer {s : State} (hs : sequencerTurn s) :
    step s = .next { s with
      block := if s.block.busy then finish (effectOf s.block.opl s.block) else s.block, turns := s.turns.tail } := by
  have : nextTurn s = (.sequencer, { s with turns := s.turns.tail }) := by
    rcases hs with hs | ⟨rest, hs⟩ <;> simp [nextTurn, hs]
    cases s; simp_all
  by_cases hb : s.block.busy = true
  · simp only [step, fetch, this, fetchSequencer, hb, if_true]
    exact exec_command _ _
  · simp [step, fetch, this, fetchSequencer, hb]

theorem step_reset {s : State} {rest : List Turn} (hs : s.turns = .reset :: rest) :
    step s = .next { s with block := Block.reset, turns := rest } := by
  simp [step, fetch, nextTurn, hs, resetBlock, State.onBlock]

/-- **Inversion of a step**: a next state is that of a transaction, of Complete, of an idle sequencer or of reset. -/
theorem step_cases {s t : State} (h : step s = .next t) :
    (∃ hdr data rest, s.turns = .host hdr data :: rest ∧ headerExists hdr = true ∧
      t = { block := hostEffect hdr data s.block, rdata := hostWord hdr s.block s.rdata, turns := rest }) ∨
    (sequencerTurn s ∧ s.block.busy = true ∧
      t = { s with block := finish (effectOf s.block.opl s.block), turns := s.turns.tail }) ∨
    (sequencerTurn s ∧ s.block.busy = false ∧ t = { s with turns := s.turns.tail }) ∨
    (∃ rest, s.turns = .reset :: rest ∧ t = { s with block := Block.reset, turns := rest }) := by
  have seq : sequencerTurn s →
      (sequencerTurn s ∧ s.block.busy = true ∧
        t = { s with block := finish (effectOf s.block.opl s.block), turns := s.turns.tail }) ∨
      (sequencerTurn s ∧ s.block.busy = false ∧ t = { s with turns := s.turns.tail }) := by
    intro hs
    rw [step_sequencer hs] at h
    injection h with h
    cases hb : s.block.busy
    · exact .inr ⟨hs, rfl, by simp [← h, hb]⟩
    · exact .inl ⟨hs, rfl, by simp [← h, hb]⟩
  cases hts : s.turns with
  | nil =>
    rcases seq (.inl hts) with h' | h'
    · exact .inr (.inl (by rwa [hts] at h'))
    · exact .inr (.inr (.inl (by rwa [hts] at h')))
  | cons x rest =>
    cases x with
    | host hdr data =>
      cases he : headerExists hdr
      · have : step s = .refused .noSuchHeader := by
          simp [step, fetch, nextTurn, hts, fetchHost, decode, decodeBus_none he]
        rw [this] at h
        simp at h
      · rw [step_host hts he] at h
        injection h with h
        exact .inl ⟨hdr, data, rest, rfl, he, h.symm⟩
    | sequencer =>
      rcases seq (.inr ⟨rest, hts⟩) with h' | h'
      · exact .inr (.inl (by rwa [hts] at h'))
      · exact .inr (.inr (.inl (by rwa [hts] at h')))
    | reset =>
      rw [step_reset hts] at h
      injection h with h
      exact .inr (.inr (.inr ⟨rest, rfl, h.symm⟩))

end Sys2Proof.Machine
end

