-- ==== Sys2Proof/Laws/Ops.lean ====
section
/-! SUPPORT. What each shared operation gives, said once: byte order, the fields of a written word, the decoded opcode,
and the results the commands leave. -/

namespace Sys2Proof.Machine

/-! ### Running -/

theorem run_of_step (M : Host.Core) {s t : M.State} (h : M.step s = .next t) (n : Nat) : M.run (n + 1) s = M.run n t := by
  simp only [Host.Core.run, h]

/-- A run that begins with a step. -/
theorem run_next {s t : State} (h : step s = .next t) (n : Nat) :
    Sys2Proof.core.run (n + 1) s = Sys2Proof.core.run n t :=
  run_of_step Sys2Proof.core h n

/-! ### Byte order and fields -/

theorem toNat_append8 {n : Nat} (x : BitVec n) (y : BitVec 8) : (x ++ y).toNat = x.toNat * 256 + y.toNat := by
  rw [BitVec.toNat_append, ← Nat.shiftLeft_add_eq_or_of_lt y.isLt, Nat.shiftLeft_eq]

theorem toNat_be32 (s : List Byte) (i : Nat) : (be32 s i).toNat =
    (byteAt s i).toNat * 2 ^ 24 + (byteAt s (i + 1)).toNat * 2 ^ 16 + (byteAt s (i + 2)).toNat * 2 ^ 8
      + (byteAt s (i + 3)).toNat := by
  simp only [be32, toNat_append8]
  omega

/-- A bit field of a word as a number. -/
theorem toNat_field {n : Nat} (w : BitVec n) (i k : Nat) : (w.extractLsb' i k).toNat = w.toNat / 2 ^ i % 2 ^ k := by
  simp [BitVec.extractLsb'_toNat, Nat.shiftRight_eq_div_pow]

theorem length_bytesBe {w : Nat} (v : BitVec w) (n : Nat) : (bytesBe v n).length = n := by simp [bytesBe]

theorem byteAt_bytesBe {w : Nat} (v : BitVec w) (n k : Nat) :
    byteAt (bytesBe v n) k = if k < n then v.extractLsb' (8 * (n - 1 - k)) 8 else 0 := by
  by_cases h : k < n <;> simp [byteAt, bytesBe, List.getD, h]

/-! ### The command word and the algorithm's code -/

theorem Opc.ofWord_none {w : Word} : Opc.ofWord w = none ↔ 7 ≤ w.toNat := by
  unfold Opc.ofWord
  simp only [BitVec.toNat_eq, BitVec.toNat_ofNat]
  constructor
  · intro h
    by_contra hlt
    have : w.toNat = 0 ∨ w.toNat = 1 ∨ w.toNat = 2 ∨ w.toNat = 3 ∨ w.toNat = 4 ∨ w.toNat = 5 ∨ w.toNat = 6 := by omega
    rcases this with h' | h' | h' | h' | h' | h' | h' <;> simp [h'] at h
  · intro h
    repeat rw [if_neg (by simp; omega)]

theorem Opc.ofWord_some {w : Word} {op : Opc} : Opc.ofWord w = some op ↔ w = Opc.word op := by
  constructor
  · intro h
    have hn : ¬7 ≤ w.toNat := by rw [← Opc.ofWord_none, h]; simp
    have : w = 0#32 ∨ w = 1#32 ∨ w = 2#32 ∨ w = 3#32 ∨ w = 4#32 ∨ w = 5#32 ∨ w = 6#32 := by
      simp only [BitVec.toNat_eq, BitVec.toNat_ofNat]; omega
    rcases this with h' | h' | h' | h' | h' | h' | h' <;> subst h' <;> cases op <;>
      first | rfl | exact absurd h (by decide)
  · rintro rfl; cases op <;> rfl

theorem Alg.ofCode_none (c : BitVec 2) : Alg.ofCode c = none ↔ c.toNat = 3 := by revert c; decide

theorem Alg.ofCode_some (c : BitVec 2) (a : Alg) : Alg.ofCode c = some a ↔ c = Alg.code a := by
  cases a <;> revert c <;> decide

/-! ### The error flags -/

@[simp] theorem errorBit_finish (b : Block) (e : ErrorFlag) : errorBit (finish b) e = errorBit b e := by cases e <;> rfl

@[simp] theorem errorBit_accept (op : Opc) (b : Block) (e : ErrorFlag) : errorBit (accept op b) e = errorBit b e := by
  cases e <;> rfl

/-- No command touches an error flag. -/
theorem errorBit_effectOf (op : Opc) (b : Block) (e : ErrorFlag) : errorBit (effectOf op b) e = errorBit b e := by
  cases op <;> cases e <;> simp [effectOf, errorBit, effectOtp]

theorem errorBit_key (b : Block) (m : Memory) (l : Nat) (e : ErrorFlag) :
    errorBit { b with key := m, keyLen := l } e = errorBit b e := by cases e <;> rfl

theorem errorBit_cfg (b : Block) (a : Alg) (d : BitVec 4) (i : Bool) (e : ErrorFlag) :
    errorBit { b with alg := a, digits := d, intEn := i } e = errorBit b e := by cases e <;> rfl

/-! ### The writes of `WR_SET` -/

/-- The write of `CMD`: an illegal word, a missing key, or acceptance. -/
theorem issue_cases (w : Word) (b : Block) :
    (7 ≤ w.toNat ∧ issue w b = raiseError .opcode b) ∨
    (∃ op, w = Opc.word op ∧ Opc.needsKey op = true ∧ b.keyLen = 0 ∧ issue w b = raiseError .keyEmpty b) ∨
    (∃ op, w = Opc.word op ∧ (Opc.needsKey op = true → b.keyLen ≠ 0) ∧ issue w b = accept op b) := by
  unfold issue
  cases h : Opc.ofWord w with
  | none => exact .inl ⟨Opc.ofWord_none.mp h, rfl⟩
  | some op =>
    have hw := Opc.ofWord_some.mp h
    dsimp only
    by_cases hk : (Opc.needsKey op && b.keyLen == 0) = true
    · rw [if_pos hk]; simp at hk; exact .inr (.inl ⟨op, hw, hk.1, hk.2, rfl⟩)
    · rw [if_neg hk]; simp at hk; exact .inr (.inr ⟨op, hw, hk, rfl⟩)

/-- The configuration words that are rejected. -/
theorem cfgOfWord_none (data : Word) :
    cfgOfWord data = none ↔ (data.toNat % 4 = 3 ∨ data.toNat / 16 % 16 < 6) := by
  have ha : (data.extractLsb' 0 2).toNat = data.toNat % 4 := by rw [toNat_field]; omega
  have hd : (data.extractLsb' 4 4).toNat = data.toNat / 16 % 16 := by rw [toNat_field]; norm_num
  have hdm : Config.digitsMin = 6 := rfl
  unfold cfgOfWord
  split
  · rename_i h; rw [Alg.ofCode_none] at h; simp; omega
  · rename_i a h
    have h3 : data.toNat % 4 ≠ 3 := by
      rw [Alg.ofCode_some] at h; rw [← ha, h]; cases a <;> decide
    split <;> simp <;> omega

/-- Which rule the write of a header of `WR_SET` runs. -/
theorem registerWrite_cases (hdr : Header) (data : Word) (b : Block) :
    (hdr = 0x104#9 ∧ registerWrite hdr data b = writeCfg data b) ∨
    (hdr = 0x108#9 ∧ registerWrite hdr data b = issue data b) ∨
    (hdr = 0x118#9 ∧ registerWrite hdr data b = pushKey data b) ∨
    (hdr ≠ 0x104#9 ∧ hdr ≠ 0x108#9 ∧ hdr ≠ 0x118#9 ∧
      (registerWrite hdr data b = setCtrHi data b ∧ hdr = 0x110#9 ∨
        registerWrite hdr data b = setCtrLo data b ∧ hdr = 0x114#9 ∨
        registerWrite hdr data b = setValue data b ∨
        registerWrite hdr data b = setDigestWord (Header.digestIndex hdr) data b)) := by
  unfold registerWrite
  by_cases h1 : hdr = 0x104#9; · left; subst h1; exact ⟨rfl, rfl⟩
  rw [if_neg h1]
  by_cases h2 : hdr = 0x108#9; · right; left; subst h2; exact ⟨rfl, rfl⟩
  rw [if_neg h2]
  by_cases h3 : hdr = 0x110#9; · subst h3; simp
  rw [if_neg h3]
  by_cases h4 : hdr = 0x114#9; · subst h4; simp
  rw [if_neg h4]
  by_cases h5 : hdr = 0x118#9; · right; right; left; subst h5; exact ⟨rfl, rfl⟩
  rw [if_neg h5]
  by_cases h6 : hdr = 0x120#9; · subst h6; simp
  rw [if_neg h6]
  simp [h1, h2, h5]

/-- The headers of the writes of `WR_SET`. -/
theorem isRegisterWrite_iff (hdr : Header) (he : headerExists hdr = true) :
    isRegisterWrite hdr = true ↔ Header.we hdr = true ∧ inWriteSet (byteOffset hdr) := by
  revert hdr; unfold inWriteSet byteOffset; decide +kernel

/-! ### The commands' results -/

/-- The digest buffer after a digest is stored: the digest, then zeros. -/
theorem read_setDigest (alg : Alg) (d : List Byte) (hd : alg.digestLen ≤ d.length) (b : Block) (i : Nat) :
    (setDigest alg d b).dg.read i = if i < alg.digestLen then byteAt d i else 0 := by
  show (Memory.writeBytes [] 0 _).read i = _
  rw [Memory.read_writeBytes rfl]
  simp only [Nat.zero_le, true_and, Nat.zero_add, Nat.sub_zero, Memory.read_nil]
  have hlen : (d.take alg.digestLen).length = alg.digestLen := by simp [hd]
  by_cases h : i < alg.digestLen
  · rw [if_pos h, if_pos (by simp only [List.length_append, hlen]; omega), List.getD_append _ _ _ _ (by omega)]
    simp [byteAt, List.getD, h]
  · rw [if_neg h]
    split
    · rw [List.getD_append_right _ _ _ _ (by omega)]
      simp only [zeros, List.getD, List.getElem?_replicate]
      split <;> rfl
    · rfl

theorem renderDigit_lt (v d i : Nat) : renderDigit v d i < 10 := Nat.mod_lt _ (by omega)

/-- The digit file RENDER leaves. -/
theorem digit_effectRender (b : Block) {i : Nat} (hi : i < 16) : digit (effectRender b) i =
    if i < b.digits.toNat then BitVec.ofNat 4 (renderDigit b.value.toNat b.digits.toNat i) else 0 := by
  have hdig : (effectRender b).dig = Vector.ofFn fun i : Fin 16 =>
      BitVec.ofNat 4 ((renderFn b.value.toNat b.digits.toNat).getD i.val 0) := by simp only [effectRender]
  have hget : ∀ v : Vector (BitVec 4) 16, v.getD i 0 = v[i] := by
    intro v; simp [Vector.getD, Array.getD, hi]
  rw [digit, hdig, hget, Vector.getElem_ofFn, renderFn]
  by_cases h : i < b.digits.toNat <;> simp [h, List.getD]

theorem toNat_digit_effectRender (b : Block) {i : Nat} (hi : i < 16) : (digit (effectRender b) i).toNat =
    if i < b.digits.toNat then renderDigit b.value.toNat b.digits.toNat i else 0 := by
  have := renderDigit_lt b.value.toNat b.digits.toNat i
  rw [digit_effectRender b hi]
  split
  · rw [BitVec.toNat_ofNat, Nat.mod_eq_of_lt (by omega)]
  · rfl

/-- What TRUNC leaves. -/
theorem effectTrunc_result (b : Block) :
    (effectTrunc b).offset = (b.dg.read (b.alg.digestLen - 1)).extractLsb' 0 4 ∧
    (effectTrunc b).value.toNat = (be32 (digestBytes b) (effectTrunc b).offset.toNat).toNat % 2 ^ 31 := by
  have hl : (digestBytes b).length = b.alg.digestLen := Memory.length_readBytes _ _ _
  have h0 : 0 < b.alg.digestLen := by cases b.alg <;> decide
  constructor
  · simp [effectTrunc, dynamicTruncation, hl]
    rw [digestBytes, Memory.byteAt_readBytes, if_pos (by omega), Nat.zero_add]
  · simp [effectTrunc, dynamicTruncation]

end Sys2Proof.Machine
end

