-- ==== Sys2Proof/Laws/Driver.lean ====
section
/-! SUPPORT. What a turn, a wait and a read of the driver do, said once. -/

namespace Sys2Proof.Machine

/-- A host turn of the driver is its transaction; the turns to come are kept. -/
theorem runTurn_host {hdr : Header} (he : headerExists hdr = true) (data : Word) (s : State) :
    runTurn (.host hdr data) s =
      some { s with block := hostEffect hdr data s.block, rdata := hostWord hdr s.block s.rdata } := by
  simp only [runTurn, step_host (s := { s with turns := .host hdr data :: s.turns }) rfl he]

/-- The sequencer's turn while busy is Complete. -/
theorem runTurn_sequencer {s : State} (hb : s.block.busy = true) :
    runTurn .sequencer s = some { s with block := finish (effectOf s.block.opl s.block) } := by
  simp only [runTurn, step_sequencer (s := { s with turns := .sequencer :: s.turns }) (.inr ⟨_, rfl⟩), hb, if_true,
    List.tail_cons]

theorem runTurns_append (ts us : List Turn) (s : State) :
    runTurns (ts ++ us) s = (runTurns ts s).bind (runTurns us) := by
  induction ts generalizing s with
  | nil => rfl
  | cons t ts ih =>
    simp only [List.cons_append, runTurns]
    cases runTurn t s with
    | none => rfl
    | some s' => exact ih s'

theorem runRead_status (s : State) :
    runRead 0x0C s = some (statusWord s.block, { s with rdata := statusWord s.block }) := by
  simp only [runRead, turnRd, runTurn_host (hdr := BitVec.ofNat 9 0x0C) rfl]
  rfl

/-- `s[0]` of the status word is `BUSY`. -/
theorem statusWord_busy (b : Block) : (statusWord b).getLsbD 0 = b.busy := by
  have key : ∀ a b c d e f g : Bool, (bitWord a <<< 12 ||| bitWord b <<< 11 ||| bitWord c <<< 10 ||| bitWord d <<< 9
      ||| bitWord e <<< 8 ||| bitWord f <<< 1 ||| bitWord g).getLsbD 0 = g := by decide
  exact key _ _ _ _ _ _ _

/-- A wait while busy ends after Complete, however many reads came before. -/
theorem runWait_busy (polls : Nat) {s : State} (hb : s.block.busy = true) :
    ∃ w, runWait polls s = some { s with block := finish (effectOf s.block.opl s.block), rdata := w } := by
  induction polls generalizing s with
  | zero =>
    refine ⟨statusWord (finish (effectOf s.block.opl s.block)), ?_⟩
    simp only [runWait, runTurns, runTurn_sequencer hb, Option.bind_some, turnRd,
      runTurn_host (hdr := BitVec.ofNat 9 0x0C) rfl]
    rfl
  | succ polls ih =>
    obtain ⟨w, hw⟩ := ih (s := { s with rdata := statusWord s.block }) hb
    refine ⟨w, ?_⟩
    simp only [runWait, runRead_status, Option.bind_some, statusWord_busy, hb, if_true]
    exact hw

/-- A wait while idle is one read, whatever the number of polls (R100). -/
theorem runWait_idle (polls : Nat) {s : State} (hb : s.block.busy = false) :
    runWait polls s = some { s with rdata := statusWord s.block } := by
  cases polls with
  | zero =>
    have hs : runTurn .sequencer s = some s := by
      simp [runTurn, step_sequencer (s := { s with turns := .sequencer :: s.turns }) (.inr ⟨_, rfl⟩), hb]
    simp only [runWait, runTurns, hs, Option.bind_some, turnRd, runTurn_host (hdr := BitVec.ofNat 9 0x0C) rfl]
    rfl
  | succ polls =>
    simp only [runWait, runRead_status, Option.bind_some, statusWord_busy, hb]
    rfl

end Sys2Proof.Machine
end

