-- ==== Sys2Proof/Laws/PerInstr.lean ====
section
/-! SUPPORT. Facts about every instruction as syntax, one lemma per constructor (family `EncodedForm`). -/

namespace Sys2Proof.Laws.EncodedForm

open Sys2Proof

/-- What an encoding may look like: a command word is one of the seven (spec/30_encoding.md R92, R95); a header's low two
bits are 0 and a read carries no data (R97). -/
def Ok : Encoding → Prop
  | .cmd w => w.toNat < 7
  | .bus hdr data => headerExists hdr = true ∧ (Header.we hdr = false → data = 0)

/-- The encoding of an instruction has that form. -/
def Statement (i : Instr) : Prop := Ok (encode i)

theorem read_ok (widx : BitVec 6) : Ok (.read widx) := by
  refine ⟨?_, fun _ => rfl⟩
  revert widx; decide +kernel

theorem write_ok (widx : BitVec 6) (data : Word) : Ok (.write widx data) := by
  have h : ∀ x : BitVec 6, headerExists (Header.make true x) = true ∧ Header.we (Header.make true x) = true := by
    decide +kernel
  exact ⟨(h widx).1, fun hw => absurd (h widx).2 (by simp [hw])⟩

theorem nop : Statement .nop := by show BitVec.toNat _ < 7; decide

theorem keyclr : Statement .keyclr := by show BitVec.toNat _ < 7; decide

theorem hmac : Statement .hmac := by show BitVec.toNat _ < 7; decide

theorem trunc : Statement .trunc := by show BitVec.toNat _ < 7; decide

theorem render : Statement .render := by show BitVec.toNat _ < 7; decide

theorem otp : Statement .otp := by show BitVec.toNat _ < 7; decide

theorem zeroize : Statement .zeroize := by show BitVec.toNat _ < 7; decide

theorem rdId : Statement .rdId := read_ok _

theorem rdCfg : Statement .rdCfg := read_ok _

theorem rdCmd : Statement .rdCmd := read_ok _

theorem rdStatus : Statement .rdStatus := read_ok _

theorem rdCtrHi : Statement .rdCtrHi := read_ok _

theorem rdCtrLo : Statement .rdCtrLo := read_ok _

theorem rdKeyPush : Statement .rdKeyPush := read_ok _

theorem rdKeyLen : Statement .rdKeyLen := read_ok _

theorem rdValue : Statement .rdValue := read_ok _

theorem rdRstat : Statement .rdRstat := read_ok _

theorem rdPwdBcd0 : Statement .rdPwdBcd0 := read_ok _

theorem rdPwdBcd1 : Statement .rdPwdBcd1 := read_ok _

theorem rdPwdAsc (j : BitVec 2) : Statement (.rdPwdAsc j) := read_ok _

theorem rdDigest (k : BitVec 4) : Statement (.rdDigest k) := read_ok _

theorem rdRsvd (widx : BitVec 6) : Statement (.rdRsvd widx) := read_ok _

theorem wrId (data : Word) : Statement (.wrId data) := write_ok _ _

theorem wrCfg (data : Word) : Statement (.wrCfg data) := write_ok _ _

theorem wrCmd (data : Word) : Statement (.wrCmd data) := write_ok _ _

theorem wrStatus (data : Word) : Statement (.wrStatus data) := write_ok _ _

theorem wrCtrHi (data : Word) : Statement (.wrCtrHi data) := write_ok _ _

theorem wrCtrLo (data : Word) : Statement (.wrCtrLo data) := write_ok _ _

theorem wrKeyPush (data : Word) : Statement (.wrKeyPush data) := write_ok _ _

theorem wrKeyLen (data : Word) : Statement (.wrKeyLen data) := write_ok _ _

theorem wrValue (data : Word) : Statement (.wrValue data) := write_ok _ _

theorem wrRstat (data : Word) : Statement (.wrRstat data) := write_ok _ _

theorem wrPwdBcd0 (data : Word) : Statement (.wrPwdBcd0 data) := write_ok _ _

theorem wrPwdBcd1 (data : Word) : Statement (.wrPwdBcd1 data) := write_ok _ _

theorem wrPwdAsc (j : BitVec 2) (data : Word) : Statement (.wrPwdAsc j data) := write_ok _ _

theorem wrDigest (k : BitVec 4) (data : Word) : Statement (.wrDigest k data) := write_ok _ _

theorem wrRsvd (widx : BitVec 6) (data : Word) : Statement (.wrRsvd widx data) := write_ok _ _

end Sys2Proof.Laws.EncodedForm
end

