-- ==== Sys2Proof/Tests/Slice0.lean ====
section
/-! SUPPORT. Tests: the smoke test of WellFormed, decoding of words written out from spec/30_encoding.md R92 and R97, the
effects of the instructions on the vectors of spec/95_test_vectors.md (V1 to V62), and a witness for the hypotheses of
every obligation that has any. -/

namespace Sys2Proof.Tests

open Sys2Proof Sys2Proof.Machine

/-! ### Helpers -/

/-- The next state of an outcome, if it is one. -/
def nextOf : Host.Outcome State Fault Refusal → Option State
  | .next s => some s
  | .fault _ => none
  | .refused _ => none

/-- The block after an instruction. -/
def blockAfter (i : Instr) (s : State) : Option Block := (nextOf (exec i s)).map (·.block)

/-- The word a read returns. -/
def readBack (i : Instr) (s : State) : Option Word := (nextOf (exec i s)).map (·.rdata)

/-- The block after one step. -/
def blockStep (s : State) : Option Block := (nextOf (step s)).map (·.block)

/-- A state with a given block. -/
def st (b : Block) : State := { State.reset with block := b }

/-- A state with given turns. -/
def stT (b : Block) (turns : List Turn) : State := { State.reset with block := b, turns := turns }

/-- The 20-byte secret of the source's fixtures (V1). -/
def key20 : List Byte :=
  [0x31, 0x32, 0x33, 0x34, 0x35, 0x36, 0x37, 0x38, 0x39, 0x30, 0x31, 0x32, 0x33, 0x34, 0x35, 0x36, 0x37, 0x38, 0x39, 0x30]

/-- The block of V1 before the command: the secret, counter 1, 8 digits. -/
def fixture : Block :=
  { Block.reset with digits := 8, ctr := 1, key := Memory.writeBytes [] 0 key20, keyLen := 20 }

/-- The same with OTP in progress. -/
def running : Block := { fixture with busy := true, opl := .otp }

/-- A block with a given digest buffer. -/
def withDigest (alg : Alg) (bytes : List Byte) : Block :=
  { Block.reset with alg := alg, dg := Memory.writeBytes [] 0 bytes }

/-! ### WellFormed: the one check, that a reserved-slot row names a reserved slot -/

theorem test_wellFormed_refuses : Instr.wellFormed (.rdRsvd 31) = false ∧ Instr.wellFormed (.wrRsvd 5 0) = false := by
  decide

theorem test_wellFormed_accepts : Instr.wellFormed (.rdRsvd 32) = true ∧ Instr.wellFormed (.wrRsvd 63 0) = true := by
  decide

/-! ### Decoding (R92, R97): every constructor from a word written out -/

theorem test_decode_commands :
    decodeTableWord 32 0x00000000 = some .nop ∧ decodeTableWord 32 0x00000001 = some .keyclr ∧
    decodeTableWord 32 0x00000002 = some .hmac ∧ decodeTableWord 32 0x00000003 = some .trunc ∧
    decodeTableWord 32 0x00000004 = some .render ∧ decodeTableWord 32 0x00000005 = some .otp ∧
    decodeTableWord 32 0x00000006 = some .zeroize := by decide

/-- The illegal words of V52. -/
theorem test_decode_illegal_words :
    decodeTableWord 32 0x00000007 = none ∧ decodeTableWord 32 0x0000000F = none ∧
    decodeTableWord 32 0x00000010 = none ∧ decodeTableWord 32 0x80000000 = none ∧
    decodeTableWord 32 0x00000012 = none ∧ decodeTableWord 32 0xFFFFFFFF = none := by decide

theorem test_decode_reads :
    decodeTableWord 16 0x000 = some .rdId ∧ decodeTableWord 16 0x004 = some .rdCfg ∧
    decodeTableWord 16 0x008 = some .rdCmd ∧ decodeTableWord 16 0x00C = some .rdStatus ∧
    decodeTableWord 16 0x010 = some .rdCtrHi ∧ decodeTableWord 16 0x014 = some .rdCtrLo ∧
    decodeTableWord 16 0x018 = some .rdKeyPush ∧ decodeTableWord 16 0x01C = some .rdKeyLen ∧
    decodeTableWord 16 0x020 = some .rdValue ∧ decodeTableWord 16 0x024 = some .rdRstat ∧
    decodeTableWord 16 0x028 = some .rdPwdBcd0 ∧ decodeTableWord 16 0x02C = some .rdPwdBcd1 ∧
    decodeTableWord 16 0x030 = some (.rdPwdAsc 0) ∧ decodeTableWord 16 0x03C = some (.rdPwdAsc 3) ∧
    decodeTableWord 16 0x040 = some (.rdDigest 0) ∧ decodeTableWord 16 0x07C = some (.rdDigest 15) ∧
    decodeTableWord 16 0x080 = some (.rdRsvd 32) ∧ decodeTableWord 16 0x0FC = some (.rdRsvd 63) := by decide

theorem test_decode_writes :
    decodeTableWord 16 0x100 = some (.wrId 0) ∧ decodeTableWord 48 0x000001810104 = some (.wrCfg 0x181) ∧
    decodeTableWord 48 0x000000050108 = some (.wrCmd 5) ∧ decodeTableWord 48 0x00001F02010C = some (.wrStatus 0x1F02) ∧
    decodeTableWord 16 0x110 = some (.wrCtrHi 0) ∧ decodeTableWord 48 0x023523EC0114 = some (.wrCtrLo 0x023523EC) ∧
    decodeTableWord 16 0x118 = some (.wrKeyPush 0) ∧ decodeTableWord 16 0x11C = some (.wrKeyLen 0) ∧
    decodeTableWord 16 0x120 = some (.wrValue 0) ∧ decodeTableWord 16 0x124 = some (.wrRstat 0) ∧
    decodeTableWord 16 0x128 = some (.wrPwdBcd0 0) ∧ decodeTableWord 16 0x12C = some (.wrPwdBcd1 0) ∧
    decodeTableWord 16 0x134 = some (.wrPwdAsc 1 0) ∧ decodeTableWord 48 0x7A2D33AB0150 = some (.wrDigest 4 0x7A2D33AB) ∧
    decodeTableWord 16 0x1FC = some (.wrRsvd 63 0) := by decide

/-- Headers whose low two bits are not 0, and bits above the header, stand for nothing. -/
theorem test_decode_no_such_header :
    decodeTableWord 16 0x001 = none ∧ decodeTableWord 16 0x106 = none ∧ decodeTableWord 16 0x204 = none := by decide

/-- `DIGEST4` is slot 20: `we` 1, `widx` 010100, two zero bits. -/
theorem test_encode_digest : encode (.wrDigest 4 7) = .bus 0b101010000#9 7 := by decide

/-! ### Fetching -/

theorem test_fetch_read : (nextOf (step (State.reset.withFetchWord 16 0x000))).map (·.rdata) = some 0x4F545031#32 := by
  decide

/-- A command word is latched and Complete runs it. -/
theorem test_fetch_command :
    blockStep (State.reset.withFetchWord 32 3) = some { Block.reset with opl := .trunc, done := true } := by decide

theorem test_fetch_illegal_command_word :
    blockStep (State.reset.withFetchWord 32 0x12) = some { Block.reset with errOpcode := true, done := true } := by decide

theorem test_fetch_no_such_header : step (State.reset.withFetchWord 16 0x001) = .refused .noSuchHeader := rfl

/-! ### The commands -/

theorem test_nop : blockAfter .nop (st { Block.reset with busy := true }) = some { Block.reset with done := true } := by
  decide

theorem test_keyclr : blockAfter .keyclr (st { running with opl := .keyclr }) =
    some { Block.reset with digits := 8, ctr := 1, opl := .keyclr, done := true } := by decide

/-- V1: the digest of the fixture. -/
theorem test_hmac : (blockAfter .hmac (st running)).map (fun b => (digestWord b 0, digestWord b 4, digestWord b 5)) =
    some (0x75A48A19#32, 0x7A2D33AB#32, 0x00000000#32) := by decide +kernel

/-- V11: SHA-256, key of 20 bytes 0x0b, message "Hi There". -/
theorem test_hmac_sha256 : (blockAfter .hmac (st { Block.reset with
      alg := .sha256, ctr := 0x4869205468657265, key := Memory.writeBytes [] 0 (List.replicate 20 0x0B), keyLen := 20
      busy := true })).map (fun b => (digestWord b 0, digestWord b 7, digestWord b 8)) =
    some (0xB0344C61#32, 0x2E32CFF7#32, 0x00000000#32) := by decide +kernel

/-- V35: only the masked bit was set, and the offset is 15. -/
theorem test_trunc_mask : (blockAfter .trunc (st (withDigest .sha1 (zeros 15 ++ [0x80, 0, 0, 0, 0x0F])))).map
    (fun b => (b.offset, b.value)) = some (15#4, 0#31) := by decide

/-- V38: the digest of 32 bytes 0x10 up, under SHA-1. -/
theorem test_trunc_alg : (blockAfter .trunc (st (withDigest .sha1
      ((List.range 32).map fun i => BitVec.ofNat 8 (0x10 + i))))).map (fun b => (b.offset, b.value)) =
    some (3#4, 0x13141516#31) := by decide +kernel

/-- V40, V41: 2147483647 with 15 digits. -/
theorem test_render_leading_zeros : (blockAfter .render (st { Block.reset with value := 0x7FFFFFFF, digits := 15 })).map
    (fun b => (bcdWord b 0, bcdWord b 8, ascWord b 0, ascWord b 3)) =
    some (0x00000214#32, 0x7483647F#32, 0x30303030#32, 0x36343700#32) := by decide +kernel

/-- V40, V41: 1094287082 with 6 digits loses its high digits. -/
theorem test_render_high_digits : (blockAfter .render (st { Block.reset with value := 0x41397EEA })).map
    (fun b => (bcdWord b 0, bcdWord b 8, ascWord b 0, ascWord b 1)) =
    some (0x287082FF#32, 0xFFFFFFFF#32, 0x32383730#32, 0x38320000#32) := by decide +kernel

/-- V1: the password "94287082" of the source's SHA-1 fixture. -/
theorem test_otp : (blockAfter .otp (st running)).map
    (fun b => (b.value, rstatWord b, bcdWord b 0, ascWord b 0, ascWord b 1)) =
    some (0x41397EEA#31, 0x0000080B#32, 0x94287082#32, 0x39343238#32, 0x37303832#32) := by decide +kernel

/-- V20 row 0: the top bit of the window is masked. -/
theorem test_otp_counter_zero : (blockAfter .otp (st { running with ctr := 0, digits := 6 })).map
    (fun b => (b.value, b.offset, bcdWord b 0)) = some (0x4C93CF18#31, 0#4, 0x755224FF#32) := by decide +kernel

/-- R127: everything but `CFG`, `ERR`, `DONE`, `OPL` as after reset. -/
theorem test_zeroize : blockAfter .zeroize (st { running with
      opl := .zeroize, value := 5, dg := [(3, 9)], pwdLen := 6, errBusy := true }) =
    some { Block.reset with digits := 8, opl := .zeroize, done := true, errBusy := true } := by decide

/-! ### Hashes (spec/44_sha.md R191) -/

theorem test_sha1_abc : (sha1 [0x61, 0x62, 0x63]).map BitVec.toNat =
    [0xa9, 0x99, 0x3e, 0x36, 0x47, 0x06, 0x81, 0x6a, 0xba, 0x3e, 0x25, 0x71, 0x78, 0x50, 0xc2, 0x6c, 0x9c, 0xd0, 0xd8,
      0x9d] := by decide +kernel

theorem test_sha256_abc : (sha256 [0x61, 0x62, 0x63]).map BitVec.toNat =
    [0xba, 0x78, 0x16, 0xbf, 0x8f, 0x01, 0xcf, 0xea, 0x41, 0x41, 0x40, 0xde, 0x5d, 0xae, 0x22, 0x23, 0xb0, 0x03, 0x61,
      0xa3, 0x96, 0x17, 0x7a, 0x9c, 0xb4, 0x10, 0xff, 0x61, 0xf2, 0x00, 0x15, 0xad] := by decide +kernel

theorem test_sha512_abc : ((sha512 [0x61, 0x62, 0x63]).map BitVec.toNat).take 16 =
    [0xdd, 0xaf, 0x35, 0xa1, 0x93, 0x61, 0x7a, 0xba, 0xcc, 0x41, 0x73, 0x49, 0xae, 0x20, 0x41, 0x31] := by decide +kernel

/-! ### The reads -/

theorem test_rd_id : readBack .rdId (st running) = some 0x4F545031#32 := by decide

/-- R214: SHA-512, 10 digits. -/
theorem test_rd_cfg : readBack .rdCfg (st { Block.reset with alg := .sha512, digits := 10 }) = some 0x000000A2#32 := by
  decide

theorem test_rd_cmd : readBack .rdCmd (st running) = some 0#32 := by decide

/-- P3: `ERR_KEY_EMPTY`, `ERR_CFG`, `ERR_OPCODE` and `DONE`. -/
theorem test_rd_status : readBack .rdStatus (st { Block.reset with
    errKeyEmpty := true, errCfg := true, errOpcode := true, done := true }) = some 0x00000B02#32 := by decide

theorem test_rd_status_busy : readBack .rdStatus (st { running with errBusy := true }) = some 0x00001001#32 := by decide

theorem test_rd_ctr : readBack .rdCtrHi (st { Block.reset with ctr := 0x00000001FFFFFFFE }) = some 1#32 ∧
    readBack .rdCtrLo (st { Block.reset with ctr := 0x00000001FFFFFFFE }) = some 0xFFFFFFFE#32 := by decide

theorem test_rd_key : readBack .rdKeyPush (st running) = some 0#32 ∧ readBack .rdKeyLen (st running) = some 0x14#32 := by
  decide

theorem test_rd_value_rstat : readBack .rdValue (st { Block.reset with value := 0x41397EEA }) = some 0x41397EEA#32 ∧
    readBack .rdRstat (st { Block.reset with pwdLen := 8, offset := 11 }) = some 0x0000080B#32 := by decide

/-- V41: the password "1357872921". -/
theorem test_rd_views : (nextOf (exec .render (st { Block.reset with value := 0x50EF7F19, digits := 10 }))).map
    (fun s => (readBack .rdPwdBcd0 s, readBack .rdPwdBcd1 s, readBack (.rdPwdAsc 2) s)) =
    some (some 0x13578729#32, some 0x21FFFFFF#32, some 0x32310000#32) := by decide +kernel

theorem test_rd_digest_rsvd : readBack (.rdDigest 4) (st { Block.reset with dg := [(16, 0x7A), (19, 0xAB)] }) =
    some 0x7A0000AB#32 ∧ readBack (.rdRsvd 32) (st running) = some 0#32 := by decide

/-! ### The writes -/

/-- V53: reserved bits are dropped; a word with ALG = 3 and one with DIGITS = 5 are rejected whole. -/
theorem test_wr_cfg : blockAfter (.wrCfg 0xFFFFFFF2) State.reset =
    some { Block.reset with alg := .sha512, digits := 15, intEn := true } ∧
    blockAfter (.wrCfg 0x000000F3) State.reset = some { Block.reset with errCfg := true } ∧
    blockAfter (.wrCfg 0x00000152) State.reset = some { Block.reset with errCfg := true } := by decide

/-- V52, V17 and R215: an illegal word, HMAC without a key, TRUNC accepted. -/
theorem test_wr_cmd : blockAfter (.wrCmd 0x12) State.reset = some { Block.reset with errOpcode := true, done := true } ∧
    blockAfter (.wrCmd 2) State.reset = some { Block.reset with errKeyEmpty := true, done := true } ∧
    blockAfter (.wrCmd 3) (st { Block.reset with done := true }) =
      some { Block.reset with opl := .trunc, busy := true } := by decide

/-- V54: from 0xB02, clearing bit 11 leaves 0x302. -/
theorem test_wr_status : (blockAfter (.wrStatus 0x800) (st { Block.reset with
    errKeyEmpty := true, errCfg := true, errOpcode := true, done := true })).map statusWord = some 0x302#32 := by decide

/-- V62: only the low half is written. -/
theorem test_wr_ctr : blockAfter (.wrCtrLo 0) (st { Block.reset with ctr := 0x00000001FFFFFFFF }) =
    some { Block.reset with ctr := 0x0000000100000000 } ∧
    blockAfter (.wrCtrHi 2) (st { Block.reset with ctr := 0x00000001FFFFFFFF }) =
      some { Block.reset with ctr := 0x00000002FFFFFFFF } := by decide

/-- V57: the upper bits are ignored; R217: the 129th push overflows. -/
theorem test_wr_key_push : blockAfter (.wrKeyPush 0xFFFFFF32) (st { Block.reset with key := [(0, 0x31)], keyLen := 1 }) =
    some { Block.reset with key := [(0, 0x31), (1, 0x32)], keyLen := 2 } ∧
    blockAfter (.wrKeyPush 1) (st { Block.reset with keyLen := 128 }) =
      some { Block.reset with keyLen := 128, errKeyOvf := true } := by decide

/-- R226. -/
theorem test_wr_value : blockAfter (.wrValue 0xC1397EEA) State.reset = some { Block.reset with value := 0x41397EEA } := by
  decide

/-- V61. -/
theorem test_wr_digest : blockAfter (.wrDigest 4 0x7A2D33AB) State.reset =
    some { Block.reset with dg := [(16, 0x7A), (17, 0x2D), (18, 0x33), (19, 0xAB)] } := by decide

/-- P3: while busy a write is dropped, an illegal configuration too, and only `ERR_BUSY` is set. -/
theorem test_wr_while_busy : blockAfter (.wrCtrLo 5) (st running) = some { running with errBusy := true } ∧
    blockAfter (.wrCfg 0x152) (st running) = some { running with errBusy := true } ∧
    blockAfter (.wrCmd 6) (st running) = some { running with errBusy := true } := by decide

/-- V58: read-only registers and reserved slots ignore writes. -/
theorem test_wr_ignored : blockAfter (.wrKeyLen 5) (st running) = some running ∧
    blockAfter (.wrRstat 0xFFFFFFFF) (st running) = some running ∧
    blockAfter (.wrRsvd 63 1) (st running) = some running := by decide

/-! ### Reset, the interrupt, the host's side -/

/-- V59. -/
theorem test_reset_during_command : blockStep (stT running [.reset]) = some Block.reset := by decide

/-- V60. -/
theorem test_irq : irq { Block.reset with done := true } = false ∧
    (blockAfter (.wrCfg 0x160) (st { Block.reset with done := true })).map irq = some true := by decide

/-- V8: the counter of the times 0, 29, 30, 59, 60. -/
theorem test_counter : ([0, 29, 30, 59, 60].map fun t =>
    (Engine.counter { secret := key20, alg := .sha1, interval := 30, referenceTimestamp := 0, digits := 8 } t).toOption) =
    [some 0, some 0, some 1, some 1, some 2] := by decide

/-- R324: RENDER right after reset gives six zeros. -/
theorem test_render_after_reset : (blockAfter .render State.reset).map (fun b => bcdWord b 0) = some 0x000000FF#32 := by
  decide +kernel

/-! ### Witnesses: a state and operands that meet all the hypotheses of an obligation, clause by clause -/

theorem witness_DecodeOfEncodeGivesTheInstruction :
    Instr.wellFormed (.wrRsvd 63 0xFFFFFFFF) = true ∧ Instr.wellFormed (.rdDigest 15) = true ∧
    Instr.wellFormed .otp = true := by decide

theorem witness_EncodeOfDecodeGivesTheEncoding :
    (decode (.bus 0x17C#9 7)).toOption = some (.wrDigest 15 7) ∧ (decode (.bus 0x03C#9 7)).toOption = some (.rdPwdAsc 3) ∧
    (decode (.cmd 6#32)).toOption = some .zeroize := by decide

theorem witness_StepRunsTheDecodedTransaction :
    decode (.bus 0x114#9 5) = .ok (.wrCtrLo 5) ∧ (stT running [.host 0x114#9 5]).turns = .host 0x114#9 5 :: [] ∧
    decode (.bus 0x1FF#9 0) = .error .noSuchHeader := ⟨rfl, rfl, rfl⟩

theorem witness_StepCompletesTheLatchedCommand :
    (stT running [.sequencer, .reset]).block.busy = true ∧
    (stT running [.sequencer, .reset]).turns = .sequencer :: [.reset] ∧ (stT running []).turns = [] := by decide

theorem witness_IdleSequencerTurnChangesNothing :
    (stT fixture [.sequencer]).block.busy = false ∧ (stT fixture [.sequencer]).turns = .sequencer :: [] ∧
    (stT fixture []).turns = [] := by decide

theorem witness_ResetSetsEveryComponent :
    (stT running [.reset, .sequencer]).turns = .reset :: [.sequencer] ∧
    (stT running [.reset, .sequencer]).block.busy = true := by decide

/-- Also for EveryCommandCompletesInTheEnd. -/
theorem witness_NoStateIsStuck :
    State.carried (stT running [.host 0x1FC#9 0, .sequencer, .reset]) = true ∧ State.carried (stT running []) = true := by
  decide

/-- The running fixture, with a digest and a password left from before, has the invariants; it can take a step. -/
theorem witness_EveryStepKeepsTheInvariants :
    Block.Inv { running with dg := [(0, 1)], value := 5, offset := 3, pwdLen := 6 } ∧
    ∃ t, step (stT { running with dg := [(0, 1)], value := 5, offset := 3, pwdLen := 6 } [.host 0x10C#9 1]) = .next t := by
  refine ⟨?_, _, rfl⟩
  exact {
    alg := by decide
    digits := by decide
    keyLen := by decide
    keyTail := fun i hi => Memory.read_above (size := 20) (by decide) hi
    value := by decide
    offset := by decide
    dig := by decide
    pwdLen := by decide
    digTail := by decide
    busyNotDone := fun _ => rfl
    opl := by decide
    keyWf := by decide
    dgWf := by decide }

theorem witness_EveryStepKeepsTheKeyOfAKeyedCommand :
    Block.KeyedCommand running ∧ running.busy = true ∧ Opc.needsKey running.opl = true ∧
    ∃ t, step (stT running [.host 0x118#9 1]) = .next t := ⟨fun _ _ => by decide, rfl, rfl, _, rfl⟩

theorem witness_KeyLengthReadsTheLength : (st { fixture with keyLen := 128 }).block.keyLen ≤ Config.keyMax := by decide

/-- Both states of the handshake that the hypothesis allows with a flag set. -/
theorem witness_StatusReadsItsFlags :
    ((st running).block.busy = true ∧ (st running).block.done = false) ∧
    ((st { fixture with done := true }).block.busy = false) ∧ ∃ t, exec .rdStatus (st running) = .next t :=
  ⟨⟨rfl, rfl⟩, rfl, _, rfl⟩

theorem witness_NoReadChangesTheBlock :
    (stT running [.host 0x0FC#9 9]).turns = .host 0x0FC#9 9 :: [] ∧ (0x0FC#9).toNat % 4 = 0 ∧ (0x0FC#9).toNat < 0x100 ∧
    (0x000#9).toNat % 4 = 0 := by decide

theorem witness_StatusWriteClearsTheOnes :
    (∃ t, exec (.wrStatus 0x1F02) (st running) = .next t) ∧ BitVec.getLsbD (0x1F02#32) 1 = true := ⟨⟨_, rfl⟩, by decide⟩

/-- Idle; a word rejected for its algorithm, one for its digits, and the least and greatest digits that are stored. -/
theorem witness_ConfigurationIsStoredWholeOrRejectedWhole :
    (st fixture).block.busy = false ∧ (0x63#32).toNat % 4 = 3 ∧ (0x50#32).toNat / 16 % 16 < 6 ∧
    ¬((0x60#32).toNat % 4 = 3 ∨ (0x60#32).toNat / 16 % 16 < 6) ∧
    ¬((0xF2#32).toNat % 4 = 3 ∨ (0xF2#32).toNat / 16 % 16 < 6) := by decide

/-- Idle; the illegal words next to the legal ones; HMAC without a key; HMAC with one, OTP with one and ZEROIZE without; a
command in progress. -/
theorem witness_CommandWriteIsAcceptedOrRejected :
    (st fixture).block.busy = false ∧ (7 ≤ (7#32).toNat % 16) ∧ (0x10#32).toNat / 16 ≠ 0 ∧
    (State.reset.block.busy = false ∧ State.reset.block.keyLen = 0) ∧
    ((2#32).toNat < 7 ∧ (st fixture).block.keyLen ≠ 0) ∧
    ((6#32).toNat < 7 ∧ ¬((6#32 = 2#32 ∨ 6#32 = 5#32) ∧ State.reset.block.keyLen = 0)) ∧
    (st running).block.busy = true := by decide

/-- A full buffer, and one with room for one more byte. -/
theorem witness_KeyPushAppendsOneByte :
    (st { Block.reset with keyLen := 128 }).block.busy = false ∧
    (st { Block.reset with keyLen := 128 }).block.keyLen = Config.keyMax ∧
    (st { Block.reset with keyLen := 127, key := [(126, 1)] }).block.keyLen < Config.keyMax ∧
    Memory.wf Config.keyMax (st { Block.reset with keyLen := 127, key := [(126, 1)] }).block.key = true := by decide

/-- Also for ValueWriteDropsTheTopBit. -/
theorem witness_CounterHalvesAreWrittenApart : (st { fixture with ctr := 0xFFFFFFFFFFFFFFFF }).block.busy = false := by
  decide

/-- Also for ReadsReturnTheLastWrite, whose last clause has the word 0xF2. -/
theorem witness_DigestWriteStoresFourBytes :
    (st { fixture with dg := [(0, 1), (63, 255)] }).block.busy = false ∧
    Memory.wf dgSize (st { fixture with dg := [(0, 1), (63, 255)] }).block.dg = true ∧
    ¬((0xF2#32).toNat % 4 = 3 ∨ (0xF2#32).toNat / 16 % 16 < 6) := by decide

/-- A write for each clause: `STATUS`; `ID`, the last `PWD_ASC`, the first reserved slot; `CFG` and the last digest word
while busy, and while idle. -/
theorem witness_WritesAreDispatchedInOrder :
    (stT running [.host 0x17C#9 1]).turns = .host 0x17C#9 1 :: [] ∧ (0x17C#9).toNat % 4 = 0 ∧ 0x100 ≤ (0x17C#9).toNat ∧
    byteOffset 0x10C#9 = 0x0C ∧
    (byteOffset 0x100#9 ≠ 0x0C ∧ ¬inWriteSet (byteOffset 0x100#9)) ∧ ¬inWriteSet (byteOffset 0x13C#9) ∧
    ¬inWriteSet (byteOffset 0x180#9) ∧
    (inWriteSet (byteOffset 0x104#9) ∧ inWriteSet (byteOffset 0x17C#9) ∧ running.busy = true ∧ fixture.busy = false) := by
  unfold inWriteSet; decide

/-- A step for each cause, with its flag 0 before and 1 after. -/
theorem witness_ErrorsAreRaisedExactlyByTheirCauses :
    (blockStep (stT fixture [.host 0x104#9 0x63])).map (errorBit · .cfg) = some true ∧
    (blockStep (stT Block.reset [.host 0x108#9 5])).map (errorBit · .keyEmpty) = some true ∧
    (blockStep (stT { fixture with keyLen := 128 } [.host 0x118#9 0])).map (errorBit · .keyOvf) = some true ∧
    (blockStep (stT fixture [.host 0x108#9 7])).map (errorBit · .opcode) = some true ∧
    (blockStep (stT running [.host 0x120#9 0])).map (errorBit · .busy) = some true ∧
    errorBit fixture .cfg = false ∧ errorBit running .busy = false := by decide

/-- A flag cleared by a write of `STATUS`, and one by reset. -/
theorem witness_ErrorFlagsAreSticky :
    errorBit { running with errBusy := true } .busy = true ∧
    (blockStep (stT { running with errBusy := true } [.host 0x10C#9 0x1000])).map (errorBit · .busy) = some false ∧
    (blockStep (stT { running with errBusy := true } [.reset])).map (errorBit · .busy) = some false := by decide

theorem witness_NoStepReadsAnErrorFlag :
    SameButErrors running { running with errCfg := true, errBusy := true } ∧
    (∃ t, step (stT running [.host 0x10C#9 0x100]) = .next t) ∧
    (stT running [.host 0x10C#9 0x100]).turns =
      (stT { running with errCfg := true, errBusy := true } [.host 0x10C#9 0x100]).turns := ⟨rfl, ⟨_, rfl⟩, rfl⟩

theorem witness_NoTransactionShowsAKeyByte :
    SameButKey running { running with key := [(0, 7)] } ∧ (∃ t, step (stT running [.host 0x018#9 0]) = .next t) ∧
    (stT running [.host 0x018#9 0]).turns = (stT { running with key := [(0, 7)] } [.host 0x018#9 0]).turns :=
  ⟨rfl, ⟨_, rfl⟩, rfl⟩

theorem witness_TransactionsLeaveARunningCommandAlone :
    (stT running [.host 0x108#9 6]).block.busy = true ∧ ∃ t, step (stT running [.host 0x108#9 6]) = .next t :=
  ⟨rfl, _, rfl⟩

theorem witness_ResultsDoNotDependOnTheDelay :
    (stT running [.host 0x00C#9 0, .host 0x108#9 6, .sequencer, .reset]).block.busy = true ∧
    (∀ x ∈ [Turn.host 0x00C#9 0, Turn.host 0x108#9 6], ∃ hdr data, x = Turn.host hdr data ∧ hdr.toNat % 4 = 0) ∧
    (stT running [.host 0x00C#9 0, .host 0x108#9 6, .sequencer, .reset]).turns =
      [.host 0x00C#9 0, .host 0x108#9 6] ++ .sequencer :: [.reset] := by
  refine ⟨rfl, ?_, rfl⟩
  intro x hx
  simp only [List.mem_cons, List.not_mem_nil, or_false] at hx
  rcases hx with rfl | rfl
  · exact ⟨_, _, rfl, by decide⟩
  · exact ⟨_, _, rfl, by decide⟩

/-- `BUSY` rises by an accepted command, and falls by Complete and by reset. -/
theorem witness_BusyFollowsTheSequencer :
    fixture.busy = false ∧ (blockStep (stT fixture [.host 0x108#9 3])).map (·.busy) = some true ∧
    (blockStep (stT { fixture with busy := true, opl := .nop } [])).map (·.busy) = some false ∧
    (blockStep (stT running [.reset])).map (·.busy) = some false := by decide

/-- The counter changes by a write of each half, by ZEROIZE and by reset. -/
theorem witness_TheBlockNeverAdvancesTheCounter :
    (blockStep (stT fixture [.host 0x110#9 1])).map (·.ctr) = some 0x0000000100000001#64 ∧
    (blockStep (stT fixture [.host 0x114#9 2])).map (·.ctr) = some 2#64 ∧
    (blockStep (stT { running with opl := .zeroize } [.sequencer])).map (·.ctr) = some 0#64 ∧
    (blockStep (stT fixture [.reset])).map (·.ctr) = some 0#64 ∧ fixture.ctr = 1#64 := by decide

theorem witness_InterruptFollowsDoneAndEnable :
    (st fixture).block.busy = false ∧ BitVec.getLsbD (2#32) 1 = true := by decide

theorem witness_CommandsWriteOnlyTheirResults :
    Opc.trunc ∉ [Opc.keyclr, Opc.zeroize] ∧ Opc.otp ≠ .zeroize ∧ Opc.render ∉ [Opc.hmac, Opc.otp, Opc.zeroize] ∧
    Opc.hmac ∉ [Opc.trunc, Opc.otp, Opc.zeroize] ∧ Opc.trunc ∉ [Opc.render, Opc.otp, Opc.zeroize] := by decide

/-- Idle, with a key and without one: for the acceptance clauses of NopAndKeyclrComplete, ZeroizeLeavesTheResetBlock,
TruncExtractsTheInteger, RenderWritesTheDigits, HmacFillsTheDigestBuffer and OtpComputesThePassword. -/
theorem witness_CommandAcceptance :
    ((st fixture).block.busy = false ∧ (st fixture).block.keyLen ≠ 0) ∧
    (State.reset.block.busy = false ∧ State.reset.block.keyLen = 0) := by decide

/-- Two 32-byte digests that differ in the bytes 19 to 30 and in the high nibble of the last. -/
theorem witness_TruncationReadsOnlyItsBytes :
    let d := zeros 19 ++ List.replicate 12 1#8 ++ [0x0F#8]
    let d' := zeros 19 ++ List.replicate 12 2#8 ++ [0xFF#8]
    20 ≤ d.length ∧ d.length = d'.length ∧ (∀ i, i < 19 → byteAt d i = byteAt d' i) ∧
    (byteAt d (d.length - 1)).toNat % 16 = (byteAt d' (d.length - 1)).toNat % 16 ∧ d ≠ d' := by decide

/-- A key of 65 bytes is longer than a SHA-1 block; one of 63 bytes and a zero fit it. -/
theorem witness_LongKeysAreHashedAndShortKeysPadded :
    Alg.blockLen .sha1 < (zeros 65).length ∧ (zeros 63).length + 1 ≤ Alg.blockLen .sha1 := by decide

/-- 55 bytes need no zero byte in a 64-byte block. -/
theorem witness_PaddedMessageFillsWholeBlocks :
    0 < 64 ∧ ((zeros 55).length + 1 + 0 + 8) % 64 = 0 := by decide

theorem witness_MessageSchedulesFollowTheirRecurrences :
    (List.replicate 16 (1#32)).length = 16 ∧ 16 ≤ 79 ∧ 79 < 16 + 64 := by decide

/-! ### The host's driver (spec/48_host_software.md R253, R255) -/

/-- The STATUS word of an idle block with `DONE`, `ERR_CFG` and `ERR_KEY_EMPTY`, and one with `DONE` alone. -/
theorem test_passwordErrors :
    passwordErrors 0x00000302 = [.invalidConfiguration, .secretEmpty] ∧ passwordErrors 0x00000002 = [] := by decide

theorem test_constructErrors :
    constructErrors 0x00000500 = [.invalidConfiguration, .secretTooLong] ∧ constructErrors 0x00000A00 = [] := by decide

/-- V1's password 94287082 from its two views, with the digit count 8 in `RSTAT`. -/
theorem test_view_password :
    View.password .bcd 0x0000080B [0x94287082, 0xFFFFFFFF] = [9, 4, 2, 8, 7, 0, 8, 2] ∧
    View.password .ascii 0x0000080B [0x39343238, 0x37303832, 0, 0] = [9, 4, 2, 8, 7, 0, 8, 2] := by decide

/-- The engine of V1. -/
def engineV1 (key : List Byte) : Engine :=
  { secret := key, alg := .sha1, interval := 30, referenceTimestamp := 0, digits := 8 }

/-- Idle at reset; a block that holds the engine of V1, and one that holds an engine with an empty secret. -/
theorem witness_EngineOnTheBlockGivesItsPasswords :
    State.reset.block.busy = false ∧
    (Block.Holds (engineV1 key20) (st fixture).block ∧ (engineV1 key20).secret ≠ []) ∧
    (Block.Holds (engineV1 []) (st { Block.reset with digits := 8 }).block ∧ (engineV1 []).secret = []) := by
  unfold Block.Holds; decide

end Sys2Proof.Tests
end

section
/-! SUPPORT and O10. The block right after reset (spec/10_state.md R43): every component has the value of the table, and
every register reads as the word the rule lists. The password views and the digest words are read off what they show:
positions past the last valid digit, and digest bytes that are zero. -/

namespace Sys2Proof.Machine

/-! ### The password views past the last valid digit, and a digest word of zero bytes -/

theorem nib_of_pwdLen_le {b : Block} {i : Nat} (h : b.pwdLen.toNat ≤ i) : nib b i = 0xF :=
  if_neg (Nat.not_lt.mpr h)

theorem chr_of_pwdLen_le {b : Block} {i : Nat} (h : b.pwdLen.toNat ≤ i) : chr b i = 0x00 :=
  if_neg (Nat.not_lt.mpr h)

/-- A BCD word that begins past the last valid digit holds the filler nibble only (R39). -/
theorem bcdWord_of_pwdLen_le {b : Block} {i : Nat} (h : b.pwdLen.toNat ≤ i) : bcdWord b i = 0xFFFFFFFF#32 := by
  have hnib (n : Nat) : nib b (i + n) = 0xF := nib_of_pwdLen_le (Nat.le_add_right_of_le h)
  simp only [bcdWord, nib_of_pwdLen_le h, hnib]
  rfl

/-- An ASCII word that begins past the last valid digit is zero (R40). -/
theorem ascWord_of_pwdLen_le {b : Block} {j : BitVec 2} (h : b.pwdLen.toNat ≤ 4 * j.toNat) : ascWord b j = 0#32 := by
  have hchr (n : Nat) : chr b (4 * j.toNat + n) = 0x00 := chr_of_pwdLen_le (Nat.le_add_right_of_le h)
  simp only [ascWord, chr_of_pwdLen_le h, hchr]
  rfl

theorem digestWord_of_read_eq_zero {b : Block} {k : BitVec 4} (h : ∀ n < 4, b.dg.read (4 * k.toNat + n) = 0) :
    digestWord b k = 0#32 := by
  have hbyte (n : Nat) : byteAt (b.dg.readBytes (4 * k.toNat) 4) n = 0 := by
    rw [Memory.byteAt_readBytes]
    split
    · exact h n ‹_›
    · rfl
  simp only [digestWord, be32, hbyte]
  rfl

/-! ### The reset block -/

@[simp] theorem digit_reset (i : Nat) : digit Block.reset i = 0 := by
  simp [digit, Block.reset, Vector.getD, Array.getD]

@[simp] theorem errorBit_reset (e : ErrorFlag) : errorBit Block.reset e = false := by cases e <;> rfl

/-- The table of R43. The entries for single components are the definition's own; the buffers, the digit file and the
error flags are read at every index. -/
theorem atReset_reset : Block.AtReset Block.reset :=
  ⟨rfl, rfl, rfl, rfl, Memory.read_nil, rfl, Memory.read_nil, rfl, rfl, digit_reset, rfl, rfl, rfl, errorBit_reset, rfl⟩

/-! ### The words read after reset -/

/-- A read of the reset state returns the word `f` that its rule computes from the reset block, and changes nothing
else. -/
theorem exec_reset_of_hostRead {i : Instr} (f : Block → Word) {w : Word}
    (hi : exec i State.reset = hostRead f State.reset) (hw : f Block.reset = w) :
    exec i State.reset = .next { State.reset with rdata := w } := by
  subst hw
  exact hi.trans (hostRead_next f State.reset)

/-- Settles O10: the table is `atReset_reset`, and each read returns its word of the reset block. The views and the
digest words follow from there being no valid digit and no digest byte but zero. -/
theorem registersReadTheirResetWords : Obligations.RegistersReadTheirResetWords := by
  have noDigit (i : Nat) : Block.reset.pwdLen.toNat ≤ i := Nat.zero_le i
  have noDigest (i : Nat) : Block.reset.dg.read i = 0 := Memory.read_nil i
  refine ⟨atReset_reset, ?id, ?cfg, ?cmd, ?status, ?ctrHi, ?ctrLo, ?keyPush, ?keyLen, ?value, ?rstat, ?bcd0, ?bcd1,
    ?asc, ?digest, ?rsvd, ?irq⟩
  case id => exact exec_reset_of_hostRead (fun _ => idWord) rfl rfl
  case cfg => exact exec_reset_of_hostRead cfgWord rfl rfl
  case status => exact exec_reset_of_hostRead statusWord rfl rfl
  case ctrHi => exact exec_reset_of_hostRead ctrHi rfl rfl
  case ctrLo => exact exec_reset_of_hostRead ctrLo rfl rfl
  case keyLen => exact exec_reset_of_hostRead keyLenWord rfl rfl
  case value => exact exec_reset_of_hostRead valueWord rfl rfl
  case rstat => exact exec_reset_of_hostRead rstatWord rfl rfl
  case bcd0 => exact exec_reset_of_hostRead (bcdWord · 0) rfl (bcdWord_of_pwdLen_le (noDigit _))
  case bcd1 => exact exec_reset_of_hostRead (bcdWord · 8) rfl (bcdWord_of_pwdLen_le (noDigit _))
  case asc => exact fun j => exec_reset_of_hostRead (ascWord · j) rfl (ascWord_of_pwdLen_le (noDigit _))
  case digest =>
    exact fun k => exec_reset_of_hostRead (digestWord · k) rfl (digestWord_of_read_eq_zero fun _ _ => noDigest _)
  case cmd | keyPush => exact exec_reset_of_hostRead (fun _ => 0) rfl rfl
  case rsvd => exact fun _ => exec_reset_of_hostRead (fun _ => 0) rfl rfl
  case irq => rfl

end Sys2Proof.Machine
end

section
/-! SUPPORT, O27, O45 and O46. The issue and the Complete of a command (spec/40_command_sequencing.md R121 to R127): what
a write of `CMD` does while idle, once for every word, and what the Complete of NOP, KEYCLR and ZEROIZE leaves. -/

namespace Sys2Proof.Machine

/-! ### The command word -/

/-- A legal command word as a number is its opcode's code: the field `ZERO` of R91 is 0. -/
theorem toNat_opcWord (op : Opc) : (Opc.word op).toNat = (Opc.code op).toNat := by cases op <;> rfl

theorem exists_opcWord_of_lt {w : Word} (h : w.toNat < 7) : ∃ op, w = Opc.word op := by
  obtain ⟨op, hop⟩ := Option.ne_none_iff_exists'.mp (mt Opc.ofWord_none.mp (Nat.not_le.mpr h))
  exact ⟨op, Opc.ofWord_some.mp hop⟩

/-- HMAC and OTP have the words 2 and 5 (R92). -/
theorem needsKey_iff_opcWord (op : Opc) : Opc.needsKey op = true ↔ Opc.word op = 2#32 ∨ Opc.word op = 5#32 := by
  cases op <;> decide

/-! ### A write of `CMD` while idle -/

theorem irq_accept (op : Opc) (b : Block) : irq (accept op b) = false := Bool.and_false _

theorem issue_illegal {w : Word} (h : 7 ≤ w.toNat) (b : Block) : issue w b = raiseError .opcode b := by
  simp only [issue, Opc.ofWord_none.mpr h]

theorem issue_opcWord (op : Opc) (b : Block) :
    issue (Opc.word op) b =
      if Opc.needsKey op && b.keyLen == 0 then raiseError .keyEmpty b else accept op b := by
  simp only [issue, Opc.ofWord_some.mpr rfl]

theorem exec_wrCmd_idle {s : State} (hidle : s.block.busy = false) (data : Word) :
    exec (.wrCmd data) s = .next { s with block := issue data s.block } := by
  simp only [exec, execWrCmd, hostWrite_next, hidle, Bool.false_eq_true, if_false]

theorem exec_wrCmd_illegal {s : State} (hidle : s.block.busy = false) {data : Word} (h : 7 ≤ data.toNat) :
    exec (.wrCmd data) s = .next { s with block := raiseError .opcode s.block } := by
  rw [exec_wrCmd_idle hidle, issue_illegal h]

theorem exec_wrCmd_keyEmpty {s : State} (hidle : s.block.busy = false) {op : Opc} (hop : Opc.needsKey op = true)
    (hkey : s.block.keyLen = 0) :
    exec (.wrCmd (Opc.word op)) s = .next { s with block := raiseError .keyEmpty s.block } := by
  rw [exec_wrCmd_idle hidle, issue_opcWord, if_pos (by simp [hop, hkey])]

theorem exec_wrCmd_accept {s : State} (hidle : s.block.busy = false) {op : Opc}
    (hkey : Opc.needsKey op = true → s.block.keyLen ≠ 0) :
    exec (.wrCmd (Opc.word op)) s = .next { s with block := accept op s.block } := by
  rw [exec_wrCmd_idle hidle, issue_opcWord, if_neg (by simpa using hkey)]

/-! ### The obligations -/

/-- Settles O27. A word is illegal from 7 on and else the word of an opcode; that opcode is rejected or accepted by its
issue check. No command's effect touches an error flag, and neither does the end of Complete. -/
theorem commandWriteIsAcceptedOrRejected : Obligations.CommandWriteIsAcceptedOrRejected := by
  refine ⟨fun s data hidle => ⟨fun hword => ?illegal, fun hword hkey => ?keyEmpty, fun hlt hkey => ?accepted⟩,
    fun s _ => ?complete⟩
  case illegal => exact exec_wrCmd_illegal hidle (by omega)
  case keyEmpty =>
    rcases hword with rfl | rfl
    · exact exec_wrCmd_keyEmpty hidle (op := .hmac) rfl hkey
    · exact exec_wrCmd_keyEmpty hidle (op := .otp) rfl hkey
  case accepted =>
    obtain ⟨op, rfl⟩ := exists_opcWord_of_lt hlt
    have haccept := exec_wrCmd_accept hidle fun hop hempty => hkey ⟨(needsKey_iff_opcWord op).mp hop, hempty⟩
    refine ⟨op, (toNat_opcWord op).symm, haccept, fun t ht => ?_⟩
    obtain rfl := Host.Outcome.next.inj (haccept.symm.trans ht)
    exact irq_accept op s.block
  case complete =>
    exact ⟨_, exec_command _ s, fun e => (errorBit_finish _ e).trans (errorBit_effectOf _ _ e)⟩

/-- Settles O45. Neither command has an issue check; KEYCLR leaves the buffer with no byte listed, so that every byte
reads as 0. -/
theorem nopAndKeyclrComplete : Obligations.NopAndKeyclrComplete := fun s =>
  ⟨fun hidle => exec_wrCmd_accept hidle (op := .nop) nofun, exec_command .nop s,
    fun hidle => exec_wrCmd_accept hidle (op := .keyclr) nofun, [], Memory.read_nil, exec_command .keyclr s⟩

/-- Settles O46. ZEROIZE has no issue check; its effect writes the reset value to every component that is neither `CFG`
nor of the handshake nor an error flag, and the end of Complete sets `BUSY` to its reset value. -/
theorem zeroizeLeavesTheResetBlock : Obligations.ZeroizeLeavesTheResetBlock := fun s =>
  ⟨fun hidle => exec_wrCmd_accept hidle (op := .zeroize) nofun, exec_command .zeroize s⟩

end Sys2Proof.Machine
end

section
/-! SUPPORT and O47. The TRUNC command (spec/41_truncate.md R141): the offset and the value that its Complete leaves, read
off the digest buffer. Every digest has at least 20 bytes, so that the four bytes taken, from an offset of at most 15 on,
are bytes of the digest. -/

namespace Sys2Proof.Machine

/-- `L` of the three algorithms (R5). -/
theorem digestLengths : DigestLengths := ⟨rfl, rfl, rfl⟩

theorem twenty_le_digestLen (alg : Alg) : 20 ≤ alg.digestLen := by cases alg <;> decide

/-- The digest's bytes are the buffer's, below `L`. -/
theorem byteAt_digestBytes {b : Block} {i : Nat} (hi : i < b.alg.digestLen) : byteAt (digestBytes b) i = b.dg.read i := by
  rw [digestBytes, Memory.byteAt_readBytes, if_pos hi, Nat.zero_add]

theorem toNat_be32_digestBytes {b : Block} {i : Nat} (hi : i + 3 < b.alg.digestLen) :
    (be32 (digestBytes b) i).toNat = bigEndian4 b.dg i := by
  rw [toNat_be32, byteAt_digestBytes (by omega), byteAt_digestBytes (by omega), byteAt_digestBytes (by omega),
    byteAt_digestBytes hi, bigEndian4]

theorem toNat_effectTrunc_offset (b : Block) :
    (effectTrunc b).offset.toNat = (b.dg.read (b.alg.digestLen - 1)).toNat % 16 := by
  rw [(effectTrunc_result b).1, toNat_field]
  omega

theorem toNat_effectTrunc_value (b : Block) :
    (effectTrunc b).value.toNat = bigEndian4 b.dg (effectTrunc b).offset.toNat % 2 ^ 31 := by
  have hoff : (effectTrunc b).offset.toNat < 16 := (effectTrunc b).offset.isLt
  have hlen := twenty_le_digestLen b.alg
  rw [(effectTrunc_result b).2, toNat_be32_digestBytes (by omega)]

/-- Settles O47. TRUNC has no issue check; its effect writes the offset and the value and nothing else, and the end of
Complete is the handshake. -/
theorem truncExtractsTheInteger : Obligations.TruncExtractsTheInteger :=
  ⟨digestLengths, fun s => ⟨fun hidle => exec_wrCmd_accept hidle (op := .trunc) nofun, (effectTrunc s.block).offset,
    (effectTrunc s.block).value, toNat_effectTrunc_offset s.block, toNat_effectTrunc_value s.block,
    exec_command .trunc s⟩⟩

end Sys2Proof.Machine
end

section
/-! O49. The RENDER command (spec/42_render.md R151): the digit file and the password length that its Complete leaves. -/

namespace Sys2Proof.Machine

/-- Settles O49. RENDER has no issue check; its effect writes the digit file and the password length and nothing else, and
the end of Complete is the handshake. Each position of the digit file is read by `toNat_digit_effectRender`: a digit of
`RENDER_FN` is below 10, so the nibble that stores it loses nothing. -/
theorem renderWritesTheDigits : Obligations.RenderWritesTheDigits := fun s =>
  ⟨fun hidle => exec_wrCmd_accept hidle (op := .render) nofun, (effectRender s.block).dig, exec_command .render s,
    fun _ hi => toNat_digit_effectRender s.block hi⟩

end Sys2Proof.Machine
end

section
/-! SUPPORT, O52 and O58. The HMAC and OTP commands (spec/43_hmac.md R160 to R166): the length of the digest, the digest
buffer that HMAC leaves, and OTP as HMAC, TRUNC and RENDER in turn. -/

namespace Sys2Proof.Machine

/-! ### The digest and its length -/

theorem Regs5.length_bytes (r : Regs5) : r.bytes.length = 20 := by
  simp only [Regs5.bytes, List.length_append, length_bytesBe]

theorem Regs8.length_bytes {w : Nat} (n : Nat) (r : Regs8 w) : (r.bytes n).length = 8 * n := by
  simp only [Regs8.bytes, List.length_append, length_bytesBe]
  omega

/-- Every hash has the digest length of its algorithm, since it ends as the bytes of its hash words (R190). -/
theorem length_hashOf (alg : Alg) (m : List Byte) : (hashOf alg m).length = alg.digestLen := by
  cases alg with
  | sha1 => exact Regs5.length_bytes _
  | sha256 | sha512 => exact Regs8.length_bytes _ _

theorem length_hmac (alg : Alg) (key m : List Byte) : (hmac alg key m).length = alg.digestLen := length_hashOf alg _

theorem counterBytes_eq_messageOf (ctr : BitVec 64) : counterBytes ctr = messageOf ctr := rfl

theorem secret_eq_map_read (b : Block) : secret b = (List.range b.keyLen).map b.key.read := by
  simp only [secret, Memory.readBytes, Nat.zero_add]

theorem blockDigest_eq_digestOf (b : Block) : blockDigest b = digestOf b := by
  rw [blockDigest, secret_eq_map_read, counterBytes_eq_messageOf, digestOf]

/-! ### The stages of OTP -/

/-- HMAC writes the whole buffer: the digest, then zeros (R163). -/
theorem read_effectHmac_dg (b : Block) (i : Nat) :
    (effectHmac b).dg.read i = if i < b.alg.digestLen then byteAt (digestOf b) i else 0 := by
  rw [effectHmac, blockDigest_eq_digestOf]
  exact read_setDigest b.alg _ (length_hmac ..).ge b i

/-- TRUNC after HMAC takes its offset from the last byte of the digest. -/
theorem toNat_effectTrunc_effectHmac_offset (b : Block) :
    (effectTrunc (effectHmac b)).offset.toNat = (byteAt (digestOf b) (b.alg.digestLen - 1)).toNat % 16 := by
  have hlen := twenty_le_digestLen b.alg
  rw [toNat_effectTrunc_offset, effectHmac_alg, read_effectHmac_dg, if_pos (by omega)]

/-! ### The handshake and the effects write different components -/

theorem effectTrunc_accept_finish (op : Opc) (b : Block) :
    effectTrunc (accept op (finish b)) = accept op (finish (effectTrunc b)) := rfl

theorem effectRender_accept_finish (op : Opc) (b : Block) :
    effectRender (accept op (finish b)) = accept op (finish (effectRender b)) := rfl

/-- An accepted command overwrites the handshake of the one completed before it. -/
theorem accept_finish_accept_finish (op op' : Opc) (b : Block) :
    accept op' (finish (accept op (finish b))) = accept op' (finish b) := rfl

/-- A Complete overwrites the handshake of the command it ends, but for the opcode. -/
theorem finish_accept_finish (op : Opc) (b : Block) : finish (accept op (finish b)) = { finish b with opl := op } := rfl

/-- HMAC, TRUNC and RENDER, each issued at the Complete of the one before, end as OTP does, with the opcode of RENDER. -/
theorem three_commands_end_as_otp (b : Block) :
    finish (effectRender (accept .render (finish (effectTrunc (accept .trunc (finish (effectHmac b))))))) =
      { finish (effectOtp b) with opl := .render } := by
  rw [effectTrunc_accept_finish, effectRender_accept_finish .render, effectRender_accept_finish .trunc,
    accept_finish_accept_finish, finish_accept_finish, effectOtp]

/-! ### The obligations -/

/-- Settles O52. HMAC needs a key; its effect writes the digest buffer and nothing else, and the end of Complete is the
handshake. The hash that HMAC ends with gives exactly `L` bytes, so the bytes kept are the whole digest. -/
theorem hmacFillsTheDigestBuffer : Obligations.HmacFillsTheDigestBuffer :=
  ⟨digestLengths, fun s => ⟨fun hidle hkey => exec_wrCmd_accept hidle (op := .hmac) fun _ => hkey,
    fun hidle hkey => exec_wrCmd_keyEmpty hidle (op := .hmac) rfl hkey, (effectHmac s.block).dg, exec_command .hmac s,
    read_effectHmac_dg s.block⟩⟩

/-- Settles O58. OTP needs a key; its effect is that of HMAC, TRUNC and RENDER in turn, so each result is read by the
lemma about its command, at the block that the command before left. The commands issued one after the other differ in the
handshake only, which no effect reads. -/
theorem otpComputesThePassword : Obligations.OtpComputesThePassword := by
  refine ⟨digestLengths, fun s => ⟨fun hidle hkey => exec_wrCmd_accept hidle (op := .otp) fun _ => hkey,
    fun hidle hkey => exec_wrCmd_keyEmpty hidle (op := .otp) rfl hkey, ?_⟩⟩
  refine ⟨(effectOtp s.block).dg, (effectOtp s.block).offset, (effectOtp s.block).value, (effectOtp s.block).dig,
    exec_command .otp s, read_effectHmac_dg s.block, toNat_effectTrunc_effectHmac_offset s.block,
    toNat_effectTrunc_value (effectHmac s.block),
    fun _ hi => toNat_digit_effectRender (effectTrunc (effectHmac s.block)) hi, ?sameEnd⟩
  case sameEnd =>
    refine ⟨_, _, _, _, _, _, exec_command .otp s, exec_command .hmac s,
      exec_wrCmd_accept rfl (op := .trunc) nofun, exec_command .trunc _, exec_wrCmd_accept rfl (op := .render) nofun,
      exec_command .render _, ?_⟩
    exact congrArg (fun b => { s with block := b }) (three_commands_end_as_otp s.block)

end Sys2Proof.Machine
end

section
/-! SUPPORT, O16 to O23 and O32. The reads and the ignored writes (spec/45_register_access.md R212 to R235): every
register word as a number in the fields that it shows, and from it what each read returns. -/

namespace Sys2Proof.Machine

/-! ### Words made of fields -/

/-- A field placed above bit `k`, and what lies below it. -/
theorem toNat_shiftLeft_or {n k : Nat} {x y : BitVec n} (hx : x.toNat * 2 ^ k < 2 ^ n) (hy : y.toNat < 2 ^ k) :
    (x <<< k ||| y).toNat = x.toNat * 2 ^ k + y.toNat := by
  rw [BitVec.toNat_or, BitVec.toNat_shiftLeft, Nat.shiftLeft_eq, Nat.mod_eq_of_lt hx, ← Nat.shiftLeft_eq,
    Nat.shiftLeft_add_eq_or_of_lt hy]

/-- Appending a field below. -/
theorem toNat_append_field {n k : Nat} (x : BitVec n) (y : BitVec k) : (x ++ y).toNat = x.toNat * 2 ^ k + y.toNat := by
  rw [BitVec.toNat_append, ← Nat.shiftLeft_add_eq_or_of_lt y.isLt, Nat.shiftLeft_eq]

/-- The lowest bits of a word as a number. -/
theorem toNat_lowField {n : Nat} (w : BitVec n) (k : Nat) : (w.extractLsb' 0 k).toNat = w.toNat % 2 ^ k := by
  rw [toNat_field, Nat.pow_zero, Nat.div_one]

theorem toNat_bitWord (x : Bool) : (bitWord x).toNat = x.toNat := by cases x <;> rfl

theorem getLsbD_bitWord (x : Bool) (i : Nat) : (bitWord x).getLsbD i = (decide (i = 0) && x) := by
  cases x <;> cases i <;> simp [bitWord]

theorem getLsbD_shiftLeft_bitWord {k : Nat} (hk : k < 32) (x : Bool) (i : Nat) :
    (bitWord x <<< k).getLsbD i = (decide (i = k) && x) := by
  rw [BitVec.getLsbD_shiftLeft, getLsbD_bitWord]
  grind

theorem toNat_shiftLeft_bitWord {k : Nat} (hk : k < 32) (x : Bool) : (bitWord x <<< k).toNat = x.toNat * 2 ^ k := by
  have hlt : x.toNat * 2 ^ k < 2 ^ 32 :=
    calc x.toNat * 2 ^ k ≤ 1 * 2 ^ k := Nat.mul_le_mul_right _ x.toNat_le
      _ < 2 ^ 32 := by rw [Nat.one_mul]; exact Nat.pow_lt_pow_right (by omega) hk
  rw [BitVec.toNat_shiftLeft, toNat_bitWord, Nat.shiftLeft_eq, Nat.mod_eq_of_lt hlt]

/-- A flag put at a bit that is 0 adds its place value. -/
theorem toNat_or_shiftLeft_bitWord {k : Nat} (hk : k < 32) {w : Word} (hw : w.getLsbD k = false) (x : Bool) :
    (w ||| bitWord x <<< k).toNat = w.toNat + x.toNat * 2 ^ k := by
  have hand : w &&& bitWord x <<< k = 0#32 := by
    apply BitVec.eq_of_getLsbD_eq
    intro i _
    rw [BitVec.getLsbD_and, getLsbD_shiftLeft_bitWord hk, BitVec.getLsbD_zero]
    by_cases hi : i = k
    · rw [hi, hw, Bool.false_and]
    · rw [decide_eq_false hi, Bool.false_and, Bool.and_false]
  rw [← BitVec.add_eq_or_of_and_eq_zero _ _ hand, BitVec.toNat_add_of_and_eq_zero hand, toNat_shiftLeft_bitWord hk]

theorem toNat_statusWord (b : Block) :
    (statusWord b).toNat = b.errBusy.toNat * 2 ^ 12 + b.errOpcode.toNat * 2 ^ 11 + b.errKeyOvf.toNat * 2 ^ 10
      + b.errKeyEmpty.toNat * 2 ^ 9 + b.errCfg.toNat * 2 ^ 8 + b.done.toNat * 2 + b.busy.toNat := by
  rw [statusWord, ← BitVec.shiftLeft_zero (bitWord b.busy)]
  simp (disch := simp [getLsbD_shiftLeft_bitWord]) only [toNat_or_shiftLeft_bitWord, toNat_shiftLeft_bitWord]
  omega

theorem toNat_cfgWord (b : Block) :
    (cfgWord b).toNat = b.intEn.toNat * 2 ^ 8 + b.digits.toNat * 2 ^ 4 + (Alg.code b.alg).toNat := by
  have hcode : (b.alg.code.zeroExtend 32).toNat = b.alg.code.toNat := BitVec.toNat_setWidth_of_le (by decide)
  have hdigits : (b.digits.zeroExtend 32).toNat = b.digits.toNat := BitVec.toNat_setWidth_of_le (by decide)
  have hintEn := b.intEn.toNat_le
  have hlow := toNat_shiftLeft_or (k := 4) (x := b.digits.zeroExtend 32) (y := b.alg.code.zeroExtend 32)
    (by omega) (by omega)
  rw [cfgWord, BitVec.or_assoc, toNat_shiftLeft_or (by rw [toNat_bitWord]; omega) (by omega), hlow, toNat_bitWord,
    hcode, hdigits, Nat.add_assoc]

theorem toNat_rstatWord (b : Block) : (rstatWord b).toNat = b.pwdLen.toNat * 2 ^ 8 + b.offset.toNat := by
  have hlen : (b.pwdLen.zeroExtend 32).toNat = b.pwdLen.toNat := BitVec.toNat_setWidth_of_le (by decide)
  have hoffset : (b.offset.zeroExtend 32).toNat = b.offset.toNat := BitVec.toNat_setWidth_of_le (by decide)
  rw [rstatWord, toNat_shiftLeft_or (by omega) (by omega), hlen, hoffset]

theorem toNat_valueWord (b : Block) : (valueWord b).toNat = b.value.toNat := BitVec.toNat_setWidth_of_le (by decide)

theorem toNat_keyLenWord {b : Block} (h : b.keyLen ≤ Config.keyMax) : (keyLenWord b).toNat = b.keyLen :=
  Nat.mod_eq_of_lt (h.trans_lt (by decide))

theorem toNat_ctrHi (b : Block) : (ctrHi b).toNat = b.ctr.toNat / 2 ^ 32 := by
  rw [ctrHi, toNat_field]
  omega

theorem toNat_ctrLo (b : Block) : (ctrLo b).toNat = b.ctr.toNat % 2 ^ 32 := toNat_lowField b.ctr 32

theorem toNat_digestWord (b : Block) (k : BitVec 4) : (digestWord b k).toNat = bigEndian4 b.dg (4 * k.toNat) := by
  simp only [digestWord, toNat_be32, Memory.byteAt_readBytes, bigEndian4]
  rfl

/-! ### The password views -/

theorem toNat_nib (b : Block) (i : Nat) :
    (nib b i).toNat = if i < b.pwdLen.toNat then (digit b i).toNat else 15 := by
  unfold nib
  split <;> rfl

/-- A digit's character code does not leave the byte. -/
theorem toNat_chr (b : Block) (i : Nat) :
    (chr b i).toNat = if i < b.pwdLen.toNat then 0x30 + (digit b i).toNat else 0 := by
  have hdigit : ((digit b i).zeroExtend 8).toNat = (digit b i).toNat := BitVec.toNat_setWidth_of_le (by decide)
  unfold chr
  split
  · rw [BitVec.toNat_add, hdigit, BitVec.toNat_ofNat]
    omega
  · rfl

/-- Nibble `n` from the top of a BCD word. -/
theorem nibble_bcdWord (b : Block) (i : Nat) {n : Nat} (hn : n < 8) :
    (bcdWord b i).toNat / 16 ^ (7 - n) % 16 = (nib b (i + n)).toNat := by
  simp only [bcdWord, toNat_append_field]
  interval_cases n
  · rw [Nat.add_zero i]; omega
  all_goals omega

/-- Byte `n` from the top of an ASCII word. -/
theorem byte_ascWord (b : Block) (j : BitVec 2) {n : Nat} (hn : n < 4) :
    (ascWord b j).toNat / 256 ^ (3 - n) % 256 = (chr b (4 * j.toNat + n)).toNat := by
  simp only [ascWord, toNat_append_field]
  interval_cases n
  · rw [Nat.add_zero (4 * j.toNat)]; omega
  all_goals omega

/-! ### The obligations -/

/-- A read whose rule computes the word `f` reads as the number that `f` is. -/
theorem readsAs_of_hostRead {i : Instr} {g : Block → Nat} (f : Block → Word) (hi : ∀ s, exec i s = hostRead f s)
    (hf : ∀ b, (f b).toNat = g b) : ReadsAs i g := fun s =>
  ⟨f s.block, (hi s).trans (hostRead_next f s), hf s.block⟩

/-- Settles O16: the rules of these registers do not look at the block. -/
theorem constantRegistersReadTheirConstants : Obligations.ConstantRegistersReadTheirConstants :=
  ⟨readsAs_of_hostRead (fun _ => idWord) (fun _ => rfl) fun _ => rfl,
    readsAs_of_hostRead (fun _ => 0) (fun _ => rfl) fun _ => rfl,
    readsAs_of_hostRead (fun _ => 0) (fun _ => rfl) fun _ => rfl⟩

/-- Settles O17: each word as the number of its fields. -/
theorem fieldRegistersReadTheirFields : Obligations.FieldRegistersReadTheirFields :=
  ⟨readsAs_of_hostRead cfgWord (fun _ => rfl) toNat_cfgWord,
    readsAs_of_hostRead valueWord (fun _ => rfl) toNat_valueWord,
    readsAs_of_hostRead rstatWord (fun _ => rfl) toNat_rstatWord⟩

/-- Settles O18: a length that the key buffer can hold fits the word. -/
theorem keyLengthReadsTheLength : Obligations.KeyLengthReadsTheLength := fun s hlen =>
  ⟨keyLenWord s.block, rfl, toNat_keyLenWord hlen, (toNat_keyLenWord hlen).trans_le hlen⟩

/-- Settles O19. `STATUS[1:0]` is `DONE` above `BUSY`, and I10 leaves three of its four values. -/
theorem statusReadsItsFlags : Obligations.StatusReadsItsFlags := by
  refine ⟨readsAs_of_hostRead statusWord (fun _ => rfl) toNat_statusWord, fun s t hexcl hread => ?_⟩
  obtain rfl := Host.Outcome.next.inj hread
  have hlow : s.block.done.toNat * 2 + s.block.busy.toNat ≠ 3 := by
    cases hbusy : s.block.busy
    · cases s.block.done <;> decide
    · rw [hexcl hbusy]; decide
  have hdone := s.block.done.toNat_le
  have hbusy := s.block.busy.toNat_le
  rw [toNat_statusWord]
  omega

/-- Settles O20: the word of each half is its 32 bits of the counter. -/
theorem counterHalvesRead : Obligations.CounterHalvesRead :=
  ⟨readsAs_of_hostRead ctrHi (fun _ => rfl) toNat_ctrHi, readsAs_of_hostRead ctrLo (fun _ => rfl) toNat_ctrLo⟩

/-- Settles O21: the two words are the nibbles from position 0 and from position 8 on. -/
theorem bcdViewShowsTheDigits : Obligations.BcdViewShowsTheDigits := fun s =>
  ⟨⟨bcdWord s.block 0, rfl, fun i hi => by rw [nibble_bcdWord s.block 0 hi, Nat.zero_add, toNat_nib]⟩,
    ⟨bcdWord s.block 8, rfl, fun i hi => by rw [nibble_bcdWord s.block 8 hi, toNat_nib]⟩⟩

/-- Settles O22: the word is the characters of four positions, and each of them fits its byte. -/
theorem asciiViewShowsTheCharacters : Obligations.AsciiViewShowsTheCharacters := fun s j =>
  ⟨ascWord s.block j, rfl, fun i hi => by rw [byte_ascWord s.block j hi, toNat_chr]⟩

/-- Settles O23: the word is the four bytes of the buffer that the index names. -/
theorem digestWordsReadBigEndian : Obligations.DigestWordsReadBigEndian := fun k =>
  readsAs_of_hostRead (digestWord · k) (fun _ => rfl) fun b => toNat_digestWord b k

/-- Settles O32: these registers have no rule that writes, and a reserved slot's word is 0. -/
theorem readOnlyAndReservedSlotsIgnoreWrites : Obligations.ReadOnlyAndReservedSlotsIgnoreWrites := fun s _ _ _ =>
  ⟨ignoredWrite_next s, ignoredWrite_next s, ignoredWrite_next s, ignoredWrite_next s, ignoredWrite_next s,
    ignoredWrite_next s, ignoredWrite_next s, hostRead_next (fun _ => 0) s⟩

end Sys2Proof.Machine
end

section
/-! SUPPORT, O25, O26, O28 to O31 and O33. The writes (spec/45_register_access.md R211 to R232): the write of `STATUS`,
what the write of each register of `WR_SET` leaves while idle, and the order of the checks of a write transaction. -/

namespace Sys2Proof.Machine

/-! ### The write of `STATUS` -/

/-- Clearing a flag where the written bit is 1 is masking its place in the word (R219). -/
theorem shiftLeft_bitWord_w1c {k : Nat} (hk : k < 32) {mask : Word} (hmask : mask.getLsbD k = true) (x : Bool)
    (data : Word) : bitWord (w1c x data k) <<< k = bitWord x <<< k &&& ~~~(data &&& mask) := by
  apply BitVec.eq_of_getLsbD_eq
  intro i hi
  rw [BitVec.getLsbD_and, BitVec.getLsbD_not, BitVec.getLsbD_and, getLsbD_shiftLeft_bitWord hk,
    getLsbD_shiftLeft_bitWord hk]
  by_cases hik : i = k
  · rw [hik, hmask, w1c, Bool.and_true, decide_eq_true hk, Bool.true_and, Bool.and_assoc]
  · simp only [hik, decide_false, Bool.false_and]

/-- A mask that leaves out bit 0 leaves `BUSY`. -/
theorem bitWord_and_not {mask : Word} (hmask : mask.getLsbD 0 = false) (x : Bool) (data : Word) :
    bitWord x &&& ~~~(data &&& mask) = bitWord x := by
  apply BitVec.eq_of_getLsbD_eq
  intro i hi
  rw [BitVec.getLsbD_and, BitVec.getLsbD_not, BitVec.getLsbD_and, getLsbD_bitWord]
  by_cases hi0 : i = 0
  · rw [hi0, hmask, Bool.and_false, Bool.not_false, decide_eq_true (by decide : 0 < 32), Bool.and_true, Bool.and_true]
  · simp only [hi0, decide_false, Bool.false_and]

theorem statusWord_ackStatus (data : Word) (b : Block) :
    statusWord (ackStatus data b) = statusWord b &&& ~~~(data &&& 0x00001F02#32) := by
  simp (disch := decide) only [statusWord, ackStatus_errBusy, ackStatus_errOpcode, ackStatus_errKeyOvf,
    ackStatus_errKeyEmpty, ackStatus_errCfg, ackStatus_done, ackStatus_busy, BitVec.and_or_distrib_right,
    shiftLeft_bitWord_w1c (mask := 0x00001F02#32), bitWord_and_not]

theorem irq_ackStatus {data : Word} (hdata : data.getLsbD 1 = true) (b : Block) : irq (ackStatus data b) = false := by
  rw [irq, ackStatus_done, w1c, hdata, Bool.not_true, Bool.and_false, Bool.and_false]

/-- Settles O25: the next state is the definition of the write, and the word after it is masked flag by flag. -/
theorem statusWriteClearsTheOnes : Obligations.StatusWriteClearsTheOnes := by
  refine fun s data => ⟨rfl, fun t ht => ?_⟩
  obtain rfl := Host.Outcome.next.inj ht
  exact ⟨statusWord_ackStatus data s.block, fun hdata => irq_ackStatus hdata s.block⟩

/-! ### The writes of `WR_SET` while idle -/

theorem hostWrite_idle {s : State} (hidle : s.block.busy = false) (f : Block → Block) :
    hostWrite f s = .next { s with block := f s.block } := by
  rw [hostWrite_next, hidle]
  rfl

/-- The fields of a configuration word that is stored (R213). -/
theorem cfgOfWord_some {data : Word} {a : Alg} {d : BitVec 4} {e : Bool} (h : cfgOfWord data = some (a, d, e)) :
    (Alg.code a).toNat = data.toNat % 4 ∧ d = BitVec.ofNat 4 (data.toNat / 16) ∧ e = data.getLsbD 8 := by
  unfold cfgOfWord at h
  split at h
  · cases h
  · rename_i alg halg
    split at h
    · cases h
    · cases h
      rw [Alg.ofCode_some] at halg
      refine ⟨?_, ?_, rfl⟩
      · rw [← halg, toNat_lowField]
        rfl
      · apply BitVec.eq_of_toNat_eq
        rw [toNat_field, BitVec.toNat_ofNat]
        rfl

/-- Settles O26. A word is rejected exactly when no configuration can be read from it. -/
theorem configurationIsStoredWholeOrRejectedWhole : Obligations.ConfigurationIsStoredWholeOrRejectedWhole := by
  refine fun s data hidle => ⟨fun hreject => ?rejected, fun hstore => ?stored⟩
  all_goals have hwrite : exec (.wrCfg data) s = _ := hostWrite_idle hidle (writeCfg data)
  case rejected =>
    rw [hwrite, writeCfg, (cfgOfWord_none data).mpr hreject]
    rfl
  case stored =>
    obtain ⟨⟨a, d, e⟩, hcfg⟩ := Option.ne_none_iff_exists'.mp (mt (cfgOfWord_none data).mp hstore)
    obtain ⟨halg, rfl, rfl⟩ := cfgOfWord_some hcfg
    simp only [writeCfg, hcfg] at hwrite
    refine ⟨a, halg, hwrite, fun t ht => ?_⟩
    obtain rfl := Host.Outcome.next.inj (hwrite.symm.trans ht)
    rfl

theorem pushKey_full {b : Block} (h : b.keyLen = Config.keyMax) (data : Word) : pushKey data b = raiseError .keyOvf b :=
  if_pos h

theorem pushKey_append {b : Block} (h : b.keyLen < Config.keyMax) (data : Word) :
    pushKey data b = { b with key := b.key.write b.keyLen (data.extractLsb' 0 8), keyLen := b.keyLen + 1 } :=
  if_neg h.ne

/-- Settles O28: the push splits on the room left, and a byte is read back at the old length only. -/
theorem keyPushAppendsOneByte : Obligations.KeyPushAppendsOneByte := by
  refine fun s data hidle => ⟨fun hfull => ?full, fun hroom hwf => ?append⟩
  all_goals have hwrite : exec (.wrKeyPush data) s = _ := hostWrite_idle hidle (pushKey data)
  case full =>
    rw [hwrite, pushKey_full hfull]
    rfl
  case append =>
    refine ⟨_, by rw [hwrite, pushKey_append hroom], fun i => ?_⟩
    rw [Memory.read_write (Memory.wf_iff.mp hwf).1, apply_ite BitVec.toNat, toNat_lowField]
    rfl

/-! ### The counter -/

theorem setCtrHi_eq (data : Word) (b : Block) :
    setCtrHi data b = { b with ctr := BitVec.ofNat 64 (data.toNat * 2 ^ 32 + b.ctr.toNat % 2 ^ 32) } := by
  rw [← toNat_ctrLo, ← toNat_append_field, BitVec.ofNat_toNat, BitVec.setWidth_eq]
  rfl

theorem setCtrLo_eq (data : Word) (b : Block) :
    setCtrLo data b = { b with ctr := BitVec.ofNat 64 (b.ctr.toNat / 2 ^ 32 * 2 ^ 32 + data.toNat) } := by
  rw [← toNat_ctrHi, ← toNat_append_field, BitVec.ofNat_toNat, BitVec.setWidth_eq]
  rfl

theorem ctrHi_setCtrHi (data : Word) (b : Block) : ctrHi (setCtrHi data b) = data :=
  BitVec.extractLsb'_append_eq_left

theorem ctrLo_setCtrLo (data : Word) (b : Block) : ctrLo (setCtrLo data b) = data :=
  BitVec.extractLsb'_append_eq_right

/-- The two halves are written in either order, and both hold then what was written. -/
theorem setCtrLo_setCtrHi (hi lo : Word) (b : Block) : setCtrLo lo (setCtrHi hi b) = setCtrHi hi (setCtrLo lo b) := by
  rw [setCtrLo, ctrHi_setCtrHi, setCtrHi, setCtrHi, ctrLo_setCtrLo]
  rfl

theorem setCtrLo_setCtrHi_ctr (hi lo : Word) (b : Block) :
    (setCtrLo lo (setCtrHi hi b)).ctr = BitVec.ofNat 64 (hi.toNat * 2 ^ 32 + lo.toNat) := by
  rw [← toNat_append_field, BitVec.ofNat_toNat, BitVec.setWidth_eq, setCtrLo, ctrHi_setCtrHi]

/-- Settles O29. Each write keeps the half that it does not name, so the two writes commute. -/
theorem counterHalvesAreWrittenApart : Obligations.CounterHalvesAreWrittenApart := by
  intro s hi lo hidle
  have writeHi {u : State} (hu : u.block.busy = false) :
      exec (.wrCtrHi hi) u = .next { u with block := setCtrHi hi u.block } := hostWrite_idle hu (setCtrHi hi)
  have writeLo {u : State} (hu : u.block.busy = false) :
      exec (.wrCtrLo lo) u = .next { u with block := setCtrLo lo u.block } := hostWrite_idle hu (setCtrLo lo)
  refine ⟨by rw [writeHi hidle, setCtrHi_eq], by rw [writeLo hidle, setCtrLo_eq], _, _, _, writeHi hidle,
    writeLo hidle, writeLo hidle, ?_, setCtrLo_setCtrHi_ctr hi lo s.block⟩
  rw [setCtrLo_setCtrHi]
  exact writeHi hidle

/-- Settles O30: the value kept is the 31-bit field of the word. -/
theorem valueWriteDropsTheTopBit : Obligations.ValueWriteDropsTheTopBit := fun _ data hidle =>
  ⟨data.extractLsb' 0 31, toNat_lowField data 31, hostWrite_idle hidle (setValue data)⟩

/-! ### The digest words -/

/-- The bytes of a buffer after four bytes are written at the index of a word (R62). -/
theorem toNat_read_writeBytes_bytesBe {m : Memory} (hm : Memory.risesFrom 0 m = true) (k a : Nat) (data : Word) :
    ((m.writeBytes (4 * k) (bytesBe data 4)).read a).toNat =
      if a / 4 = k then data.toNat / 256 ^ (3 - a % 4) % 256 else (m.read a).toNat := by
  rw [Memory.read_writeBytes hm, length_bytesBe, apply_ite BitVec.toNat]
  by_cases ha : a / 4 = k
  · have hsub : a - 4 * k = a % 4 := by omega
    have hbyte := byteAt_bytesBe data 4 (a % 4)
    rw [if_pos (by omega)] at hbyte
    rw [if_pos (by omega), if_pos ha, hsub, ← byteAt, hbyte, toNat_field, Nat.pow_mul]
    rfl
  · rw [if_neg (by omega), if_neg ha]

/-- Settles O31: the four addresses written are those whose quotient by 4 is the index of the word. -/
theorem digestWriteStoresFourBytes : Obligations.DigestWriteStoresFourBytes := fun s k data hidle hwf =>
  ⟨(setDigestWord k data s.block).dg, hostWrite_idle hidle (setDigestWord k data),
    fun a => toNat_read_writeBytes_bytesBe (Memory.wf_iff.mp hwf).1 k.toNat a data⟩

/-! ### The order of the checks -/

theorem headerExists_of_mod_four {hdr : Header} (h : hdr.toNat % 4 = 0) : headerExists hdr = true := by
  rw [headerExists, beq_iff_eq]
  apply BitVec.eq_of_toNat_eq
  rw [toNat_lowField]
  exact h

theorem we_of_le_toNat : ∀ hdr : Header, 0x100 ≤ hdr.toNat → Header.we hdr = true := by decide +kernel

/-- The header of a write is its offset with bit 8 set. -/
theorem toNat_of_we {hdr : Header} (hwe : 0x100 ≤ hdr.toNat) : hdr.toNat = 0x100 + byteOffset hdr := by
  have := hdr.isLt
  unfold byteOffset
  omega

/-- A write transaction gives the host no word. -/
theorem step_write {s : State} {hdr : Header} {data : Word} {rest : List Turn} (hs : s.turns = .host hdr data :: rest)
    (he : headerExists hdr = true) (hwe : Header.we hdr = true) :
    step s = .next { s with block := hostEffect hdr data s.block, turns := rest } := by
  rw [step_host hs he, hostWord, if_pos hwe]

theorem step_eq_exec {s : State} {hdr : Header} {data : Word} {rest : List Turn} {i : Instr}
    (hs : s.turns = .host hdr data :: rest) (hi : decodeBus hdr data = .ok i) :
    step s = exec i { s with turns := rest } := by
  rw [step_host hs (headerExists_of_decodeBus hi), exec_decoded hi]

theorem hostEffect_ignored {hdr : Header} (hstatus : hdr ≠ 0x10C#9) (hreg : isRegisterWrite hdr = false) (data : Word)
    (b : Block) : hostEffect hdr data b = b := by
  rw [hostEffect, if_neg hstatus, hreg]
  rfl

theorem hostEffect_dropped {hdr : Header} (hreg : isRegisterWrite hdr = true) {b : Block} (hbusy : b.busy = true)
    (data : Word) : hostEffect hdr data b = raiseError .busy b := by
  have hstatus : hdr ≠ 0x10C#9 := by rintro rfl; exact absurd hreg (by decide)
  rw [hostEffect, if_neg hstatus, if_pos hreg, if_pos hbusy]

theorem eq_make_slotDigest : ∀ hdr : Header, hdr &&& 0x1C3#9 = 0x140#9 →
    hdr = Header.make true (slotDigest (Header.digestIndex hdr)) := by
  decide +kernel

theorem decodeBus_make_slotDigest (k : BitVec 4) (data : Word) :
    decodeBus (Header.make true (slotDigest k)) data = .ok (.wrDigest k data) := by
  obtain ⟨n, hn, rfl⟩ : ∃ n < 16, k = BitVec.ofNat 4 n :=
    ⟨k.toNat, k.isLt, by rw [BitVec.ofNat_toNat, BitVec.setWidth_eq]⟩
  interval_cases n <;> rfl

/-- The headers of `WR_SET` decode to the writes of its registers: the six single ones, or a digest word. -/
theorem decodeBus_registerWrite {hdr : Header} (hreg : isRegisterWrite hdr = true) (data : Word) :
    (∃ i ∈ [.wrCfg data, .wrCmd data, .wrCtrHi data, .wrCtrLo data, .wrKeyPush data, .wrValue data],
      decodeBus hdr data = .ok i) ∨ ∃ k, decodeBus hdr data = .ok (.wrDigest k data) := by
  simp only [isRegisterWrite, Bool.or_eq_true, decide_eq_true_eq] at hreg
  rcases hreg with (((((rfl | rfl) | rfl) | rfl) | rfl) | rfl) | hdigest
  case inr =>
    rw [eq_make_slotDigest hdr hdigest]
    exact .inr ⟨_, decodeBus_make_slotDigest _ data⟩
  all_goals exact .inl ⟨_, by simp, rfl⟩

/-- Settles O33. `hostEffect` makes the checks in the order of R211; which headers pass them is read off the offset. -/
theorem writesAreDispatchedInOrder : Obligations.WritesAreDispatchedInOrder := by
  intro s hdr data rest hs halign hwrite u
  have he := headerExists_of_mod_four halign
  have hwe := we_of_le_toNat hdr hwrite
  have hreg : isRegisterWrite hdr = true ↔ inWriteSet (byteOffset hdr) := by simp [isRegisterWrite_iff hdr he, hwe]
  refine ⟨fun hoff => ?status, fun hoff hout => ?ignored, fun hin hbusy => ?dropped, fun hin hidle => ?runs⟩
  case status =>
    obtain rfl : hdr = 0x10C#9 := BitVec.eq_of_toNat_eq (by rw [toNat_of_we hwrite, hoff]; rfl)
    exact step_eq_exec hs rfl
  case ignored =>
    have hstatus : hdr ≠ 0x10C#9 := by rintro rfl; exact hoff rfl
    rw [step_write hs he hwe, hostEffect_ignored hstatus (Bool.eq_false_iff.mpr (mt hreg.mp hout))]
  case dropped =>
    rw [step_write hs he hwe, hostEffect_dropped (hreg.mpr hin) hbusy]
    rfl
  case runs =>
    rcases decodeBus_registerWrite (hreg.mpr hin) data with ⟨i, hmem, hi⟩ | ⟨k, hk⟩
    · exact ⟨i, hi, List.mem_append_left _ hmem, step_eq_exec hs hi⟩
    · refine ⟨_, hk, List.mem_append_right _ (List.mem_map.mpr ⟨k.toNat, List.mem_range.mpr k.isLt, ?_⟩),
        step_eq_exec hs hk⟩
      rw [BitVec.ofNat_toNat, BitVec.setWidth_eq]

end Sys2Proof.Machine
end

section
/-! SUPPORT and O35. The errors (spec/60_exceptions.md R281): a host turn with the cause of an error does what
`raiseError` does, and a step raises no flag without its cause. -/

namespace Sys2Proof.Machine

/-! ### The error flags under the operations that raise none -/

theorem errorBit_ackStatus (data : Word) (b : Block) (e : ErrorFlag) :
    errorBit (ackStatus data b) e = w1c (errorBit b e) data (ErrorFlag.code e) := by cases e <;> rfl

theorem errorBit_setCtrHi (data : Word) (b : Block) (e : ErrorFlag) :
    errorBit (setCtrHi data b) e = errorBit b e := by cases e <;> rfl

theorem errorBit_setCtrLo (data : Word) (b : Block) (e : ErrorFlag) :
    errorBit (setCtrLo data b) e = errorBit b e := by cases e <;> rfl

theorem errorBit_setValue (data : Word) (b : Block) (e : ErrorFlag) :
    errorBit (setValue data b) e = errorBit b e := by cases e <;> rfl

theorem errorBit_setDigestWord (k : BitVec 4) (data : Word) (b : Block) (e : ErrorFlag) :
    errorBit (setDigestWord k data b) e = errorBit b e := by cases e <;> rfl

/-- Bit by bit, the word of `STATUS` is its seven flags. -/
theorem getLsbD_statusWord (b : Block) (i : Nat) : (statusWord b).getLsbD i =
    (decide (i = 12) && b.errBusy || decide (i = 11) && b.errOpcode || decide (i = 10) && b.errKeyOvf
      || decide (i = 9) && b.errKeyEmpty || decide (i = 8) && b.errCfg || decide (i = 1) && b.done
      || decide (i = 0) && b.busy) := by
  simp (disch := decide) only [statusWord, BitVec.getLsbD_or, getLsbD_shiftLeft_bitWord, getLsbD_bitWord]

theorem getLsbD_statusWord_code (b : Block) (e : ErrorFlag) :
    (statusWord b).getLsbD (ErrorFlag.code e) = errorBit b e := by
  rw [getLsbD_statusWord]
  cases e <;> simp [ErrorFlag.code, errorBit]

/-! ### A cause raises its error -/

/-- Every cause is a write transaction. -/
theorem ErrorCause.is_write {e : ErrorFlag} {b : Block} {hdr : Header} {data : Word} (h : ErrorCause e b hdr data) :
    headerExists hdr = true ∧ Header.we hdr = true := by
  cases e with
  | busy =>
    obtain ⟨-, hwe, he, -⟩ := h
    exact ⟨he, hwe⟩
  | cfg | keyEmpty | keyOvf | opcode =>
    obtain ⟨-, rfl, -⟩ := h
    exact ⟨rfl, rfl⟩

theorem writeCfg_rejected {data : Word} (h : data.toNat % 4 = 3 ∨ data.toNat / 16 % 16 < 6) (b : Block) :
    writeCfg data b = raiseError .cfg b := by
  rw [writeCfg, (cfgOfWord_none data).mpr h]

theorem issue_keyEmpty {op : Opc} (hop : Opc.needsKey op = true) {b : Block} (hkey : b.keyLen = 0) :
    issue (Opc.word op) b = raiseError .keyEmpty b := by
  rw [issue_opcWord, if_pos (by simp [hop, hkey])]

theorem hostEffect_idle {hdr : Header} (hreg : isRegisterWrite hdr = true) {b : Block} (hidle : b.busy = false)
    (data : Word) : hostEffect hdr data b = registerWrite hdr data b := by
  have hstatus : hdr ≠ 0x10C#9 := by rintro rfl; exact absurd hreg (by decide)
  rw [hostEffect, if_neg hstatus, if_pos hreg, hidle]
  rfl

/-- A host turn with the cause of an error raises it, and does nothing else. -/
theorem hostEffect_of_errorCause {e : ErrorFlag} {b : Block} {hdr : Header} {data : Word}
    (h : ErrorCause e b hdr data) : hostEffect hdr data b = raiseError e b := by
  cases e with
  | cfg =>
    obtain ⟨hidle, rfl, hword⟩ := h
    exact (hostEffect_idle rfl hidle data).trans (writeCfg_rejected hword.symm b)
  | keyEmpty =>
    obtain ⟨hidle, rfl, rfl | rfl, hkey⟩ := h
    · exact (hostEffect_idle rfl hidle _).trans (issue_keyEmpty (op := .hmac) rfl hkey)
    · exact (hostEffect_idle rfl hidle _).trans (issue_keyEmpty (op := .otp) rfl hkey)
  | keyOvf =>
    obtain ⟨hidle, rfl, hfull⟩ := h
    exact (hostEffect_idle rfl hidle data).trans (pushKey_full hfull data)
  | opcode =>
    obtain ⟨hidle, rfl, hword⟩ := h
    exact (hostEffect_idle rfl hidle data).trans (issue_illegal (by omega) b)
  | busy =>
    obtain ⟨hbusy, hwe, he, hoff⟩ := h
    exact hostEffect_dropped ((isRegisterWrite_iff hdr he).mpr ⟨hwe, hoff⟩) hbusy data

/-- A step with the cause of an error raises it, and nothing else changes but the turn used up. -/
theorem step_of_errorCause {s : State} {e : ErrorFlag} {hdr : Header} {data : Word} {rest : List Turn}
    (hs : s.turns = .host hdr data :: rest) (h : ErrorCause e s.block hdr data) :
    step s = .next { s with block := raiseError e s.block, turns := rest } := by
  obtain ⟨he, hwe⟩ := h.is_write
  rw [step_write hs he hwe, hostEffect_of_errorCause h]

/-! ### A raised error has its cause -/

/-- `f` takes the flag `e` from 0 to 1. -/
def Raises (e : ErrorFlag) (f : Block → Block) (b : Block) : Prop := errorBit b e = false ∧ errorBit (f b) e = true

section
variable {e : ErrorFlag} {b : Block} {hdr : Header} {data : Word}

theorem not_raises_of_errorBit_eq {f : Block → Block} (hf : errorBit (f b) e = errorBit b e) : ¬Raises e f b := by
  rintro ⟨hlow, hhigh⟩
  exact absurd (hlow.symm.trans (hf.symm.trans hhigh)) (by decide)

theorem eq_of_raises_raiseError {e' : ErrorFlag} {f : Block → Block} (hf : f b = raiseError e' b) (h : Raises e f b) :
    e' = e := by
  obtain ⟨hlow, hhigh⟩ := h
  simpa [hf, hlow] using hhigh

theorem raises_writeCfg (h : Raises e (writeCfg data) b) :
    e = .cfg ∧ (data.toNat % 4 = 3 ∨ data.toNat / 16 % 16 < 6) := by
  cases hcfg : cfgOfWord data with
  | none =>
    have hword := (cfgOfWord_none data).mp hcfg
    exact ⟨(eq_of_raises_raiseError (writeCfg_rejected hword b) h).symm, hword⟩
  | some c => exact absurd h (not_raises_of_errorBit_eq (by rw [writeCfg, hcfg]; exact errorBit_cfg ..))

theorem raises_pushKey (h : Raises e (pushKey data) b) : e = .keyOvf ∧ b.keyLen = Config.keyMax := by
  by_cases hfull : b.keyLen = Config.keyMax
  · exact ⟨(eq_of_raises_raiseError (pushKey_full hfull data) h).symm, hfull⟩
  · exact absurd h (not_raises_of_errorBit_eq (by rw [pushKey, if_neg hfull]; exact errorBit_key ..))

theorem raises_issue (h : Raises e (issue data) b) :
    (e = .opcode ∧ 7 ≤ data.toNat) ∨ (e = .keyEmpty ∧ (data = 2#32 ∨ data = 5#32) ∧ b.keyLen = 0) := by
  rcases issue_cases data b with ⟨hword, hissue⟩ | ⟨op, rfl, hop, hkey, hissue⟩ | ⟨op, -, -, hissue⟩
  · exact .inl ⟨(eq_of_raises_raiseError hissue h).symm, hword⟩
  · exact .inr ⟨(eq_of_raises_raiseError hissue h).symm, (needsKey_iff_opcWord op).mp hop, hkey⟩
  · exact absurd h (not_raises_of_errorBit_eq (by rw [hissue, errorBit_accept]))

/-- Of the writes of `WR_SET` only those of `CFG`, `CMD` and `KEY_PUSH` raise an error while idle. -/
theorem errorCause_of_raises_registerWrite (hidle : b.busy = false) (h : Raises e (registerWrite hdr data) b) :
    ErrorCause e b hdr data := by
  rcases registerWrite_cases hdr data b with ⟨rfl, -⟩ | ⟨rfl, -⟩ | ⟨rfl, -⟩ | ⟨-, -, -, hother⟩
  · obtain ⟨rfl, hword⟩ := raises_writeCfg h
    exact ⟨hidle, rfl, hword.symm⟩
  · obtain ⟨rfl, hword⟩ | ⟨rfl, hword, hkey⟩ := raises_issue h
    · exact ⟨hidle, rfl, by omega⟩
    · exact ⟨hidle, rfl, hword, hkey⟩
  · obtain ⟨rfl, hfull⟩ := raises_pushKey h
    exact ⟨hidle, rfl, hfull⟩
  · refine absurd h (not_raises_of_errorBit_eq ?_)
    rcases hother with ⟨hw, -⟩ | ⟨hw, -⟩ | hw | hw <;> rw [hw]
    · exact errorBit_setCtrHi ..
    · exact errorBit_setCtrLo ..
    · exact errorBit_setValue ..
    · exact errorBit_setDigestWord ..

/-- A host turn that raises an error has its cause: the write of `STATUS` and the ignored transactions raise none, and a
write dropped while busy raises `ERR_BUSY` only. -/
theorem errorCause_of_raises_hostEffect (he : headerExists hdr = true) (h : Raises e (hostEffect hdr data) b) :
    ErrorCause e b hdr data := by
  by_cases hstatus : hdr = 0x10C#9
  · obtain ⟨hlow, hhigh⟩ := h
    rw [hostEffect, if_pos hstatus, errorBit_ackStatus, hlow] at hhigh
    cases hhigh
  cases hreg : isRegisterWrite hdr
  · exact absurd h (not_raises_of_errorBit_eq (by rw [hostEffect_ignored hstatus hreg]))
  cases hbusy : b.busy
  · refine errorCause_of_raises_registerWrite hbusy ?_
    rwa [Raises, ← hostEffect_idle hreg hbusy]
  · obtain rfl := eq_of_raises_raiseError (hostEffect_dropped hreg hbusy data) h
    obtain ⟨hwe, hoff⟩ := (isRegisterWrite_iff hdr he).mp hreg
    exact ⟨hbusy, hwe, he, hoff⟩

end

/-- A step that raises an error is a host turn with its cause: Complete, an idle sequencer and reset raise none. -/
theorem errorCause_of_step {s t : State} {e : ErrorFlag} (h : step s = .next t) (hlow : errorBit s.block e = false)
    (hhigh : errorBit t.block e = true) :
    ∃ hdr data rest, s.turns = .host hdr data :: rest ∧ ErrorCause e s.block hdr data := by
  rcases step_cases h with ⟨hdr, data, rest, hs, he, rfl⟩ | ⟨-, -, rfl⟩ | ⟨-, -, rfl⟩ | ⟨_, -, rfl⟩
  · exact ⟨hdr, data, rest, hs, errorCause_of_raises_hostEffect he ⟨hlow, hhigh⟩⟩
  · rw [errorBit_finish, errorBit_effectOf, hlow] at hhigh
    cases hhigh
  · exact absurd (hlow.symm.trans hhigh) (by decide)
  · rw [errorBit_reset] at hhigh
    cases hhigh

/-- Settles O35. The cause of a raised flag is `errorCause_of_step`; what a step with a cause does, and so the converse
and the block after each error, is `step_of_errorCause`. -/
theorem errorsAreRaisedExactlyByTheirCauses : Obligations.ErrorsAreRaisedExactlyByTheirCauses := by
  refine ⟨fun s t e h hlow => ⟨⟨errorCause_of_step h hlow, ?raised⟩, fun hhigh => ?effect⟩, getLsbD_statusWord_code⟩
  case raised =>
    rintro ⟨hdr, data, rest, hs, hcause⟩
    obtain rfl := Host.Outcome.next.inj ((step_of_errorCause hs hcause).symm.trans h)
    simp
  case effect =>
    obtain ⟨hdr, data, rest, hs, hcause⟩ := errorCause_of_step h hlow hhigh
    obtain rfl := Host.Outcome.next.inj ((step_of_errorCause hs hcause).symm.trans h)
    refine ⟨rfl, ?_, ?_, ?_, ?_, ?_⟩ <;> (rintro rfl; rfl)

end Sys2Proof.Machine
end

section
/-! PROOF. The reset step (spec/70_reset_and_hazards.md R320). `step_reset` says that a reset turn gives the reset block
whatever the block was, `atReset_reset` that this block has every value of R43. -/

namespace Sys2Proof.Machine

/-- `irq` is low as soon as `CFG.INT_EN` is at its reset value (spec/60_exceptions.md R286). -/
theorem irq_of_atReset {b : Block} (h : Block.AtReset b) : irq b = false := by
  obtain ⟨-, -, hintEn, -⟩ := h
  rw [irq, hintEn, Bool.false_and]

/-- Settles O9. -/
theorem resetSetsEveryComponent : Obligations.ResetSetsEveryComponent := fun _ _ hs =>
  ⟨_, step_reset hs, atReset_reset, irq_of_atReset atReset_reset⟩

end Sys2Proof.Machine
end

section
/-! SUPPORT, O1 to O5. The two encoded forms (spec/30_encoding.md R90 to R97): which row of the bus table a header
selects, by its place in the table, and the encoding that the instruction of a row has. -/

namespace Sys2Proof.Machine

/-! ### Command words -/

theorem decodeCmd_word (op : Opc) : decodeCmd (Opc.word op) = .ok op.toInstr := by
  simp only [decodeCmd, Opc.ofWord_some.mpr rfl]

theorem decodeCmd_ok {w : Word} {i : Instr} (h : decodeCmd w = .ok i) : ∃ op, w = Opc.word op ∧ i = op.toInstr := by
  unfold decodeCmd at h
  split at h
  · rename_i op hop
    cases h
    exact ⟨op, Opc.ofWord_some.mp hop, rfl⟩
  · cases h

/-- Settles O4: a word below 7 is the word of an opcode, and an opcode's word is its code, which is below 7. -/
theorem sevenCommandWordsAreLegal : Obligations.SevenCommandWordsAreLegal := by
  refine fun w => ⟨?legal, fun hlt => ?below⟩
  case legal =>
    rintro ⟨i, hi⟩
    obtain ⟨op, rfl, -⟩ := decodeCmd_ok hi
    cases op <;> decide
  case below =>
    obtain ⟨op, rfl⟩ := exists_opcWord_of_lt hlt
    exact ⟨_, decodeCmd_word op⟩

/-! ### The row that a header selects -/

/-- The decoded instruction is that of the first row that the header selects. -/
theorem decodeBus_of_findIdx {hdr : Header} {data : Word} {i : Instr} {r : BusRow} {n : Nat}
    (hn : busTable.findIdx (BusRow.selects · hdr) = n) (hr : busTable[n]? = some r) (hi : r.instr hdr data = i) :
    decodeBus hdr data = .ok i := by
  have hfind : busTable.find? (BusRow.selects · hdr) = some r := by
    rw [List.find?_eq_getElem?_findIdx, hn, hr]
  rw [decodeBus, hfind, ← hi]

/-- The rows of `PWD_ASC` are the rows 12 and 27 of the table, and give back the index of the slot. -/
theorem row_slotPwdAsc : ∀ (we : Bool) (j : BitVec 2),
    busTable.findIdx (BusRow.selects · (Header.make we (slotPwdAsc j))) = (if we then 27 else 12) ∧
    Header.ascIndex (Header.make we (slotPwdAsc j)) = j := by decide +kernel

theorem row_slotDigest : ∀ (we : Bool) (k : BitVec 4),
    busTable.findIdx (BusRow.selects · (Header.make we (slotDigest k))) = (if we then 28 else 13) ∧
    Header.digestIndex (Header.make we (slotDigest k)) = k := by decide +kernel

theorem row_reservedSlot : ∀ (we : Bool) (widx : BitVec 6), reservedSlot widx = true →
    busTable.findIdx (BusRow.selects · (Header.make we widx)) = (if we then 29 else 14) ∧
    Header.widx (Header.make we widx) = widx := by decide +kernel

/-- Settles O1. A command's word is decoded by its opcode. A row without an index field is found by computing; a row
with one is found at its place in the table, and takes the index from the header. -/
theorem decodeOfEncodeGivesTheInstruction : Obligations.DecodeOfEncodeGivesTheInstruction := by
  intro i hwf
  cases i with
  | nop => exact decodeCmd_word .nop
  | keyclr => exact decodeCmd_word .keyclr
  | hmac => exact decodeCmd_word .hmac
  | trunc => exact decodeCmd_word .trunc
  | render => exact decodeCmd_word .render
  | otp => exact decodeCmd_word .otp
  | zeroize => exact decodeCmd_word .zeroize
  | rdPwdAsc j =>
    obtain ⟨hrow, hindex⟩ := row_slotPwdAsc false j
    exact decodeBus_of_findIdx hrow rfl (congrArg Instr.rdPwdAsc hindex)
  | rdDigest k =>
    obtain ⟨hrow, hindex⟩ := row_slotDigest false k
    exact decodeBus_of_findIdx hrow rfl (congrArg Instr.rdDigest hindex)
  | rdRsvd widx =>
    obtain ⟨hrow, hindex⟩ := row_reservedSlot false widx hwf
    exact decodeBus_of_findIdx hrow rfl (congrArg Instr.rdRsvd hindex)
  | wrPwdAsc j data =>
    obtain ⟨hrow, hindex⟩ := row_slotPwdAsc true j
    exact decodeBus_of_findIdx hrow rfl (congrArg (Instr.wrPwdAsc · data) hindex)
  | wrDigest k data => exact decodeBus_make_slotDigest k data
  | wrRsvd widx data =>
    obtain ⟨hrow, hindex⟩ := row_reservedSlot true widx hwf
    exact decodeBus_of_findIdx hrow rfl (congrArg (Instr.wrRsvd · data) hindex)
  | _ => rfl

/-! ### The encoding of a row's instruction -/

/-- What O2 says of one row: where a header selects it, the row's instruction is well formed and has the header and data
as its encoding. -/
def RowEncodes (r : BusRow) : Prop :=
  ∀ hdr data, r.selects hdr = true →
    (r.instr hdr data).wellFormed = true ∧ encode (r.instr hdr data) = (Encoding.bus hdr data).canonical

/-- A row without an index field is selected by its pattern only. -/
theorem rowEncodes_of_full_mask {pattern : Header} {instr : Header → Word → Instr}
    (h : ∀ data, (instr pattern data).wellFormed = true ∧
      encode (instr pattern data) = (Encoding.bus pattern data).canonical) :
    RowEncodes { pattern := pattern, mask := 0x1FF#9, instr := instr } := by
  intro hdr data hsel
  obtain rfl : hdr = pattern := by rwa [BusRow.selects, full_mask, beq_iff_eq] at hsel
  exact h data

theorem we_make : ∀ (we : Bool) (widx : BitVec 6), Header.we (Header.make we widx) = we := by decide +kernel

theorem canonical_bus_make (we : Bool) (widx : BitVec 6) (data : Word) :
    (Encoding.bus (Header.make we widx) data).canonical = if we then .write widx data else .read widx := by
  rw [Encoding.canonical, we_make]
  cases we <;> rfl

/-- A row with an index field is selected by the headers of the slots that its index names. -/
theorem rowEncodes_of_slot {pattern mask : Header} {instr : Header → Word → Instr} {we : Bool}
    (slot : Header → BitVec 6)
    (hslot : ∀ hdr, hdr &&& mask = pattern →
      hdr = Header.make we (slot hdr) ∧ ∀ data, (instr hdr data).wellFormed = true)
    (hencode : ∀ hdr data, encode (instr hdr data) = if we then .write (slot hdr) data else .read (slot hdr)) :
    RowEncodes { pattern := pattern, mask := mask, instr := instr } := by
  intro hdr data hsel
  obtain ⟨hhdr, hwf⟩ := hslot hdr (beq_iff_eq.mp hsel)
  refine ⟨hwf data, ?_⟩
  calc encode (instr hdr data)
    _ = (Encoding.bus (Header.make we (slot hdr)) data).canonical := by rw [hencode, canonical_bus_make]
    _ = (Encoding.bus hdr data).canonical := by rw [← hhdr]

theorem eq_make_slotPwdAsc : ∀ (we : Bool) (hdr : Header),
    hdr &&& 0x1F3#9 = Header.make we 12 → hdr = Header.make we (slotPwdAsc (Header.ascIndex hdr)) := by
  decide +kernel

theorem eq_make_read_slotDigest : ∀ hdr : Header, hdr &&& 0x1C3#9 = 0x040#9 →
    hdr = Header.make false (slotDigest (Header.digestIndex hdr)) := by
  decide +kernel

theorem eq_make_reservedSlot : ∀ (we : Bool) (hdr : Header), hdr &&& 0x183#9 = Header.make we 32 →
    hdr = Header.make we (Header.widx hdr) ∧ reservedSlot (Header.widx hdr) = true := by
  decide +kernel

theorem rowEncodes_readRows : ∀ r ∈ readRows, RowEncodes r := by
  simp only [readRows, List.forall_mem_cons, List.not_mem_nil, false_implies, implies_true, and_true]
  refine ⟨?_, ?_, ?_, ?_, ?_, ?_, ?_, ?_, ?_, ?_, ?_, ?_, ?pwdAsc, ?digest, ?rsvd⟩
  case pwdAsc =>
    exact rowEncodes_of_slot (we := false) (fun hdr => slotPwdAsc (Header.ascIndex hdr))
      (fun hdr h => ⟨eq_make_slotPwdAsc false hdr h, fun _ => rfl⟩) fun _ _ => rfl
  case digest =>
    exact rowEncodes_of_slot (we := false) (fun hdr => slotDigest (Header.digestIndex hdr))
      (fun hdr h => ⟨eq_make_read_slotDigest hdr h, fun _ => rfl⟩) fun _ _ => rfl
  case rsvd =>
    exact rowEncodes_of_slot (we := false) Header.widx
      (fun hdr h => (eq_make_reservedSlot false hdr h).imp_right fun h _ => h) fun _ _ => rfl
  all_goals exact rowEncodes_of_full_mask fun _ => ⟨rfl, rfl⟩

theorem rowEncodes_writeRows : ∀ r ∈ writeRows, RowEncodes r := by
  simp only [writeRows, List.forall_mem_cons, List.not_mem_nil, false_implies, implies_true, and_true]
  refine ⟨?_, ?_, ?_, ?_, ?_, ?_, ?_, ?_, ?_, ?_, ?_, ?_, ?pwdAsc, ?digest, ?rsvd⟩
  case pwdAsc =>
    exact rowEncodes_of_slot (we := true) (fun hdr => slotPwdAsc (Header.ascIndex hdr))
      (fun hdr h => ⟨eq_make_slotPwdAsc true hdr h, fun _ => rfl⟩) fun _ _ => rfl
  case digest =>
    exact rowEncodes_of_slot (we := true) (fun hdr => slotDigest (Header.digestIndex hdr))
      (fun hdr h => ⟨eq_make_slotDigest hdr h, fun _ => rfl⟩) fun _ _ => rfl
  case rsvd =>
    exact rowEncodes_of_slot (we := true) Header.widx
      (fun hdr h => (eq_make_reservedSlot true hdr h).imp_right fun h _ => h) fun _ _ => rfl
  all_goals exact rowEncodes_of_full_mask fun _ => ⟨rfl, rfl⟩

/-- Settles O2: a command word is its opcode's, and a header is decoded by a row that it selects. -/
theorem encodeOfDecodeGivesTheEncoding : Obligations.EncodeOfDecodeGivesTheEncoding := by
  intro e i h
  cases e with
  | cmd w =>
    obtain ⟨op, rfl, rfl⟩ := decodeCmd_ok h
    cases op <;> exact ⟨rfl, rfl⟩
  | bus hdr data =>
    obtain ⟨r, hr, hsel, rfl⟩ := decodeBus_ok h
    exact (List.forall_mem_append.mpr ⟨rowEncodes_readRows, rowEncodes_writeRows⟩) r hr hdr data hsel

/-! ### The table, and words written out -/

/-- Settles O3, by counting the rows that each of the 512 headers selects. -/
theorem busRowsPartitionTheAlignedHeaders : Obligations.BusRowsPartitionTheAlignedHeaders :=
  ⟨rfl, by decide +kernel⟩

/-- Settles O5, by decoding each word. -/
theorem writtenOutWordsDecode : Obligations.WrittenOutWordsDecode :=
  ⟨rfl, rfl, rfl, rfl, rfl, rfl, rfl, rfl, rfl, rfl⟩

end Sys2Proof.Machine
end

section
/-! SUPPORT, O6 to O8, O11 to O13 and O24. The step (spec/20_memory.md section 1, spec/40_command_sequencing.md
section 1): what a host turn and a sequencer turn run, that no step is stuck while the port can carry the turns, and
that Complete is taken in the end. -/

namespace Sys2Proof.Machine

/-! ### Host turns -/

theorem step_refused {s : State} {hdr : Header} {data : Word} {rest : List Turn} {x : DecodeError}
    (hs : s.turns = .host hdr data :: rest) (hx : decodeBus hdr data = .error x) :
    step s = .refused .noSuchHeader := by
  simp only [step, fetch, nextTurn, hs, fetchHost, decode, hx]

/-- **Inversion of a host turn**: a next state is that of the transaction, whose header exists. -/
theorem step_host_next {s t : State} {hdr : Header} {data : Word} {rest : List Turn}
    (hs : s.turns = .host hdr data :: rest) (h : step s = .next t) :
    headerExists hdr = true ∧
      t = { block := hostEffect hdr data s.block, rdata := hostWord hdr s.block s.rdata, turns := rest } := by
  cases he : headerExists hdr
  · rw [step_refused hs (decodeBus_none he data)] at h
    cases h
  · rw [step_host hs he] at h
    exact ⟨rfl, (Host.Outcome.next.inj h).symm⟩

/-- Settles O6. -/
theorem stepRunsTheDecodedTransaction : Obligations.StepRunsTheDecodedTransaction := fun _ _ _ _ hs =>
  ⟨fun _ hi => step_eq_exec hs hi, fun _ hx => step_refused hs hx⟩

/-- A read transaction does nothing to the block: it is neither the write of `STATUS` nor one of `WR_SET`. -/
theorem hostEffect_read {hdr : Header} (hwe : Header.we hdr = false) (data : Word) (b : Block) :
    hostEffect hdr data b = b := by
  have hwrite : ∀ hdr : Header, isRegisterWrite hdr = true → Header.we hdr = true := by decide +kernel
  refine hostEffect_ignored ?_ (Bool.eq_false_iff.mpr fun hreg => ?_) data b
  · rintro rfl
    exact absurd hwe (by decide)
  · exact absurd (hwrite hdr hreg) (by simp [hwe])

theorem we_of_toNat_lt : ∀ hdr : Header, hdr.toNat < 0x100 → Header.we hdr = false := by decide +kernel

/-- Settles O24. -/
theorem noReadChangesTheBlock : Obligations.NoReadChangesTheBlock := fun s hdr data _ hs halign hread =>
  ⟨_, step_host hs (headerExists_of_mod_four halign), hostEffect_read (we_of_toNat_lt hdr hread) data s.block, rfl⟩

/-! ### Sequencer turns -/

theorem sequencerTurn_and_tail {s : State} {rest : List Turn}
    (hs : s.turns = .sequencer :: rest ∨ (s.turns = [] ∧ rest = [])) : sequencerTurn s ∧ s.turns.tail = rest := by
  rcases hs with hs | ⟨hs, rfl⟩
  · exact ⟨.inr ⟨rest, hs⟩, by rw [hs, List.tail_cons]⟩
  · exact ⟨.inl hs, by rw [hs, List.tail_nil]⟩

theorem step_complete {s : State} (hs : sequencerTurn s) (hbusy : s.block.busy = true) :
    step s = .next { s with block := finish (effectOf s.block.opl s.block), turns := s.turns.tail } := by
  rw [step_sequencer hs, if_pos hbusy]

theorem step_sequencer_idle {s : State} (hs : sequencerTurn s) (hidle : s.block.busy = false) :
    step s = .next { s with turns := s.turns.tail } := by
  rw [step_sequencer hs, hidle]
  rfl

/-- Settles O7. -/
theorem stepCompletesTheLatchedCommand : Obligations.StepCompletesTheLatchedCommand := by
  intro s rest hbusy hs
  obtain ⟨hseq, rfl⟩ := sequencerTurn_and_tail hs
  exact ⟨_, decodeCmd_word s.block.opl, by rw [step_complete hseq hbusy, exec_command]⟩

/-- Settles O8. -/
theorem idleSequencerTurnChangesNothing : Obligations.IdleSequencerTurnChangesNothing := by
  intro s rest hidle hs
  obtain ⟨hseq, rfl⟩ := sequencerTurn_and_tail hs
  exact step_sequencer_idle hseq hidle

/-- After a turn of the sequencer the block is idle. -/
theorem step_sequencer_ends_idle {s : State} (hs : sequencerTurn s) : ∃ t, step s = .next t ∧ t.block.busy = false := by
  cases hbusy : s.block.busy
  · exact ⟨_, step_sequencer_idle hs hbusy, hbusy⟩
  · exact ⟨_, step_complete hs hbusy, rfl⟩

/-! ### Progress -/

/-- Settles O11: the turn is of one of the three agents, or none is left and the sequencer acts. -/
theorem noStateIsStuck : Obligations.NoStateIsStuck := by
  intro s hcarried
  cases hs : s.turns with
  | nil => exact ⟨_, step_sequencer (.inl hs), by rw [hs], by rw [State.carried, hs, List.tail_nil]; rfl⟩
  | cons x rest =>
    rw [State.carried, hs, List.all_cons, Bool.and_eq_true] at hcarried
    obtain ⟨hx, hrest⟩ := hcarried
    cases x with
    | host hdr data => exact ⟨_, step_host hs hx, rfl, hrest⟩
    | sequencer =>
      exact ⟨_, step_sequencer (.inr ⟨rest, hs⟩), by rw [hs], by rw [State.carried, hs, List.tail_cons]; exact hrest⟩
    | reset => exact ⟨_, step_reset hs, rfl, hrest⟩

/-- Settles O12, by induction on the turns: each step uses one up, and after the last one the sequencer acts. -/
theorem everyCommandCompletesInTheEnd : Obligations.EveryCommandCompletesInTheEnd := by
  intro s hcarried
  induction hn : s.turns.length generalizing s with
  | zero =>
    obtain ⟨t, hstep, hidle⟩ := step_sequencer_ends_idle (.inl (List.eq_nil_of_length_eq_zero hn))
    exact ⟨t, run_next hstep 0, hidle⟩
  | succ n ih =>
    obtain ⟨t, hstep, hturns, ht⟩ := noStateIsStuck s hcarried
    obtain ⟨u, hrun, hidle⟩ := ih t ht (by rw [hturns, List.length_tail, hn, Nat.add_sub_cancel])
    exact ⟨u, (run_next hstep _).trans hrun, hidle⟩

/-- Settles O13. The components are those of the table of R43, so each invariant is one about numbers. -/
theorem invariantsHoldAtReset : Obligations.InvariantsHoldAtReset where
  left := {
    alg := by decide
    digits := by decide
    keyLen := by decide
    keyTail := fun i _ => Memory.read_nil i
    value := by decide
    offset := by decide
    dig := fun i _ => by rw [State.reset, digit_reset]; decide
    pwdLen := .inl rfl
    digTail := fun i _ _ => digit_reset i
    busyNotDone := nofun
    opl := by decide
    keyWf := Memory.wf_nil _
    dgWf := Memory.wf_nil _ }
  right := nofun

end Sys2Proof.Machine
end

section
/-! SUPPORT, O14 and O15. What a host turn does to the block, by cases, and the invariants of spec/10_state.md section 9
under every operation of the block, and from them under every step. An operation keeps by definition each invariant
whose components it does not write. -/

namespace Sys2Proof.Machine

/-! ### What a host turn does, by cases -/

/-- A host turn is the write of `STATUS`, a transaction that does nothing, a write dropped while busy, or a write of a
register of `WR_SET` (R211). -/
theorem hostEffect_cases (hdr : Header) (data : Word) (b : Block) :
    (hdr = 0x10C#9 ∧ hostEffect hdr data b = ackStatus data b) ∨
    hostEffect hdr data b = b ∨
    (b.busy = true ∧ hostEffect hdr data b = raiseError .busy b) ∨
    (b.busy = false ∧ isRegisterWrite hdr = true ∧ hostEffect hdr data b = registerWrite hdr data b) := by
  by_cases hstatus : hdr = 0x10C#9
  · exact .inl ⟨hstatus, by rw [hostEffect, if_pos hstatus]⟩
  cases hreg : isRegisterWrite hdr
  · exact .inr (.inl (hostEffect_ignored hstatus hreg data b))
  cases hbusy : b.busy
  · exact .inr (.inr (.inr ⟨rfl, rfl, hostEffect_idle hreg hbusy data⟩))
  · exact .inr (.inr (.inl ⟨rfl, hostEffect_dropped hreg hbusy data⟩))

/-- While busy a host turn at most acknowledges the status or raises `ERR_BUSY`. -/
theorem hostEffect_busy_cases {b : Block} (hbusy : b.busy = true) (hdr : Header) (data : Word) :
    hostEffect hdr data b = ackStatus data b ∨ hostEffect hdr data b = b ∨
      hostEffect hdr data b = raiseError .busy b := by
  rcases hostEffect_cases hdr data b with ⟨-, heffect⟩ | heffect | ⟨-, heffect⟩ | ⟨hidle, -⟩
  · exact .inl heffect
  · exact .inr (.inl heffect)
  · exact .inr (.inr heffect)
  · exact absurd (hbusy.symm.trans hidle) (by decide)

theorem writeCfg_cases (data : Word) (b : Block) :
    writeCfg data b = raiseError .cfg b ∨ ∃ a d e, writeCfg data b = { b with alg := a, digits := d, intEn := e } := by
  cases hcfg : cfgOfWord data with
  | none => exact .inl (writeCfg_rejected ((cfgOfWord_none data).mp hcfg) b)
  | some c => exact .inr ⟨c.1, c.2.1, c.2.2, by rw [writeCfg, hcfg]⟩

theorem pushKey_cases (data : Word) (b : Block) :
    pushKey data b = raiseError .keyOvf b ∨ ∃ key, pushKey data b = { b with key := key, keyLen := b.keyLen + 1 } := by
  by_cases hfull : b.keyLen = Config.keyMax
  · exact .inl (pushKey_full hfull data)
  · exact .inr ⟨_, if_neg hfull⟩

/-- Of the writes of `WR_SET` only that of `CMD` writes `BUSY`. -/
theorem registerWrite_busy {hdr : Header} (hcmd : hdr ≠ 0x108#9) (data : Word) (b : Block) :
    (registerWrite hdr data b).busy = b.busy := by
  rcases registerWrite_cases hdr data b with ⟨-, hw⟩ | ⟨hhdr, -⟩ | ⟨-, hw⟩ | ⟨-, -, -, ⟨hw, -⟩ | ⟨hw, -⟩ | hw | hw⟩
  · rw [hw]
    rcases writeCfg_cases data b with hcfg | ⟨a, d, e, hcfg⟩ <;> rw [hcfg]
    exact raiseError_busy _ _
  · exact absurd hhdr hcmd
  · rw [hw]
    rcases pushKey_cases data b with hpush | ⟨key, hpush⟩ <;> rw [hpush]
    exact raiseError_busy _ _
  all_goals rw [hw]; rfl

/-- Of the writes of `WR_SET` only those of its halves write the counter. -/
theorem registerWrite_ctr {hdr : Header} (hhi : hdr ≠ 0x110#9) (hlo : hdr ≠ 0x114#9) (data : Word) (b : Block) :
    (registerWrite hdr data b).ctr = b.ctr := by
  rcases registerWrite_cases hdr data b with
    ⟨-, hw⟩ | ⟨-, hw⟩ | ⟨-, hw⟩ | ⟨-, -, -, ⟨-, hhdr⟩ | ⟨-, hhdr⟩ | hw | hw⟩
  · rw [hw]
    rcases writeCfg_cases data b with hcfg | ⟨a, d, e, hcfg⟩ <;> rw [hcfg]
    exact raiseError_ctr _ _
  · rw [hw]
    rcases issue_cases data b with ⟨-, hissue⟩ | ⟨op, -, -, -, hissue⟩ | ⟨op, -, -, hissue⟩ <;> rw [hissue]
    · exact raiseError_ctr _ _
    · exact raiseError_ctr _ _
    · exact accept_ctr op b
  · rw [hw]
    rcases pushKey_cases data b with hpush | ⟨key, hpush⟩ <;> rw [hpush]
    exact raiseError_ctr _ _
  · exact absurd hhdr hhi
  · exact absurd hhdr hlo
  all_goals rw [hw]; rfl

/-- No write of `WR_SET` clears an error flag. -/
theorem errorBit_registerWrite {b : Block} {e : ErrorFlag} (h : errorBit b e = true) (hdr : Header) (data : Word) :
    errorBit (registerWrite hdr data b) e = true := by
  have hraise (e' : ErrorFlag) : errorBit (raiseError e' b) e = true := by rw [errorBit_raiseError, h, Bool.true_or]
  rcases registerWrite_cases hdr data b with ⟨-, hw⟩ | ⟨-, hw⟩ | ⟨-, hw⟩ | ⟨-, -, -, ⟨hw, -⟩ | ⟨hw, -⟩ | hw | hw⟩ <;>
    rw [hw]
  · rcases writeCfg_cases data b with hcfg | ⟨a, d, i, hcfg⟩ <;> rw [hcfg]
    · exact hraise _
    · exact (errorBit_cfg b a d i e).trans h
  · rcases issue_cases data b with ⟨-, hissue⟩ | ⟨op, -, -, -, hissue⟩ | ⟨op, -, -, hissue⟩ <;> rw [hissue]
    · exact hraise _
    · exact hraise _
    · exact (errorBit_accept op b e).trans h
  · rcases pushKey_cases data b with hpush | ⟨key, hpush⟩ <;> rw [hpush]
    · exact hraise _
    · exact (errorBit_key b _ _ e).trans h
  · exact (errorBit_setCtrHi ..).trans h
  · exact (errorBit_setCtrLo ..).trans h
  · exact (errorBit_setValue ..).trans h
  · exact (errorBit_setDigestWord ..).trans h

/-! ### The invariants under host turns -/

theorem Opc.toNat_code_le (op : Opc) : (Opc.code op).toNat ≤ 6 := by cases op <;> decide

theorem Alg.toNat_code_le (a : Alg) : (Alg.code a).toNat ≤ 2 := by cases a <;> decide

section
variable {b : Block} (h : Block.Inv b)
include h

theorem Block.Inv.raiseError {e : ErrorFlag} (hdone : b.busy = true → e.setsDone = false) :
    Block.Inv (raiseError e b) := by
  cases e with
  | cfg | keyOvf | busy => exact { h with }
  | keyEmpty | opcode => exact { h with busyNotDone := fun hbusy => absurd (hdone hbusy) (by decide) }

theorem Block.Inv.ackStatus (data : Word) : Block.Inv (ackStatus data b) :=
  { h with busyNotDone := fun hbusy => by rw [ackStatus_done, h.busyNotDone hbusy]; rfl }

theorem Block.Inv.accept (op : Opc) : Block.Inv (accept op b) :=
  { h with busyNotDone := fun _ => rfl, opl := Opc.toNat_code_le op }

theorem Block.Inv.setCtrHi (data : Word) : Block.Inv (setCtrHi data b) := { h with }

theorem Block.Inv.setCtrLo (data : Word) : Block.Inv (setCtrLo data b) := { h with }

theorem Block.Inv.setValue (data : Word) : Block.Inv (setValue data b) :=
  { h with value := (data.extractLsb' 0 31).isLt }

theorem Block.Inv.setDigestWord (k : BitVec 4) (data : Word) : Block.Inv (setDigestWord k data b) :=
  { h with dgWf := Memory.wf_writeBytes h.dgWf _ _ (by rw [length_bytesBe, dgSize]; omega) }

theorem Block.Inv.writeCfg (data : Word) : Block.Inv (writeCfg data b) := by
  cases hcfg : cfgOfWord data with
  | none =>
    rw [writeCfg_rejected ((cfgOfWord_none data).mp hcfg)]
    exact h.raiseError fun _ => rfl
  | some c =>
    obtain ⟨a, d, e⟩ := c
    obtain ⟨-, hd, -⟩ := cfgOfWord_some hcfg
    have hlegal : ¬(data.toNat % 4 = 3 ∨ data.toNat / 16 % 16 < 6) := by
      rw [← cfgOfWord_none, hcfg]
      exact Option.some_ne_none _
    have hdigits : d.toNat = data.toNat / 16 % 16 := by rw [hd, BitVec.toNat_ofNat]
    rw [Machine.writeCfg, hcfg]
    exact { h with alg := Alg.toNat_code_le a, digits := by dsimp only; omega }

theorem Block.Inv.issue (hidle : b.busy = false) (w : Word) : Block.Inv (issue w b) := by
  have hdone (e : ErrorFlag) : b.busy = true → e.setsDone = false := fun hbusy => absurd hbusy (by simp [hidle])
  rcases issue_cases w b with ⟨-, hissue⟩ | ⟨op, -, -, -, hissue⟩ | ⟨op, -, -, hissue⟩ <;> rw [hissue]
  · exact h.raiseError (hdone _)
  · exact h.raiseError (hdone _)
  · exact h.accept op

theorem Block.Inv.pushKey (data : Word) : Block.Inv (pushKey data b) := by
  rcases Nat.eq_or_lt_of_le h.keyLen with hfull | hroom
  · rw [pushKey_full hfull]
    exact h.raiseError fun _ => rfl
  · rw [pushKey_append hroom]
    exact { h with
      keyLen := hroom
      keyTail := fun i hi => by
        dsimp only at hi ⊢
        rw [Memory.read_write (Memory.wf_iff.mp h.keyWf).1, if_neg (by omega)]
        exact h.keyTail i (by omega)
      keyWf := Memory.wf_write h.keyWf hroom _ }

theorem Block.Inv.registerWrite (hidle : b.busy = false) (hdr : Header) (data : Word) :
    Block.Inv (registerWrite hdr data b) := by
  rcases registerWrite_cases hdr data b with ⟨-, hw⟩ | ⟨-, hw⟩ | ⟨-, hw⟩ | ⟨-, -, -, ⟨hw, -⟩ | ⟨hw, -⟩ | hw | hw⟩ <;>
    rw [hw]
  · exact h.writeCfg data
  · exact h.issue hidle data
  · exact h.pushKey data
  · exact h.setCtrHi data
  · exact h.setCtrLo data
  · exact h.setValue data
  · exact h.setDigestWord _ data

theorem Block.Inv.hostEffect (hdr : Header) (data : Word) : Block.Inv (hostEffect hdr data b) := by
  rcases hostEffect_cases hdr data b with ⟨-, heffect⟩ | heffect | ⟨-, heffect⟩ | ⟨hidle, -, heffect⟩ <;> rw [heffect]
  · exact h.ackStatus data
  · exact h
  · exact h.raiseError fun _ => rfl
  · exact h.registerWrite hidle hdr data

/-! ### The invariants under commands -/

theorem Block.Inv.finish : Block.Inv (finish b) := { h with busyNotDone := nofun }

theorem Block.Inv.effectKeyclr : Block.Inv (effectKeyclr b) :=
  { h with keyLen := Nat.zero_le _, keyTail := fun i _ => Memory.read_nil i, keyWf := Memory.wf_nil _ }

theorem Block.Inv.effectHmac : Block.Inv (effectHmac b) :=
  { h with
    dgWf := Memory.wf_writeBytes (Memory.wf_nil _) _ _ (by
      have hlen : b.alg.digestLen ≤ dgSize := by cases b.alg <;> decide
      rw [List.length_append, List.length_take, zeros, List.length_replicate]
      omega) }

theorem Block.Inv.effectTrunc : Block.Inv (effectTrunc b) :=
  { h with
    value := (Machine.effectTrunc b).value.isLt
    offset := Nat.le_of_lt_succ (Machine.effectTrunc b).offset.isLt }

theorem Block.Inv.effectRender : Block.Inv (effectRender b) := by
  have hdigit {i : Nat} (hi : i < 16) := digit_effectRender b hi
  obtain ⟨dig, hrender⟩ : ∃ dig, Machine.effectRender b = { b with dig := dig, pwdLen := b.digits } :=
    ⟨_, by rw [Machine.effectRender]⟩
  rw [hrender] at hdigit ⊢
  exact { h with
    dig := fun i hi => by
      have := renderDigit_lt b.value.toNat b.digits.toNat i
      rw [hdigit hi]
      split
      · rw [BitVec.toNat_ofNat]; omega
      · exact Nat.zero_le _
    pwdLen := .inr h.digits
    digTail := fun i hi hlen => by rw [hdigit hi, if_neg (Nat.not_lt.mpr hlen)] }

theorem Block.Inv.effectZeroize : Block.Inv (effectZeroize b) :=
  have hreset := invariantsHoldAtReset.1
  { hreset with alg := h.alg, digits := h.digits, busyNotDone := h.busyNotDone, opl := h.opl }

theorem Block.Inv.effectOf (op : Opc) : Block.Inv (effectOf op b) := by
  cases op with
  | nop => exact h
  | keyclr => exact h.effectKeyclr
  | hmac => exact h.effectHmac
  | trunc => exact h.effectTrunc
  | render => exact h.effectRender
  | otp => exact h.effectHmac.effectTrunc.effectRender
  | zeroize => exact h.effectZeroize

end

/-! ### The invariants under every step -/

/-- Settles O14: the step is a host turn, Complete, an idle sequencer or reset, and the operation of each keeps the
invariants. -/
theorem everyStepKeepsTheInvariants : Obligations.EveryStepKeepsTheInvariants := by
  intro s t h hstep
  rcases step_cases hstep with ⟨hdr, data, rest, -, -, rfl⟩ | ⟨-, -, rfl⟩ | ⟨-, -, rfl⟩ | ⟨rest, -, rfl⟩
  · exact h.hostEffect hdr data
  · exact (h.effectOf s.block.opl).finish
  · exact h
  · exact invariantsHoldAtReset.1

/-! ### The key of a command in progress -/

theorem keyedCommand_of_idle {b : Block} (hidle : b.busy = false) : Block.KeyedCommand b :=
  fun hbusy => absurd (hidle.symm.trans hbusy) (by decide)

/-- Acceptance has made the issue check (R123); a rejected word leaves the block idle. -/
theorem keyedCommand_issue {b : Block} (hidle : b.busy = false) (w : Word) : Block.KeyedCommand (issue w b) := by
  rcases issue_cases w b with ⟨-, hissue⟩ | ⟨op, -, -, -, hissue⟩ | ⟨op, -, hkey, hissue⟩ <;> rw [hissue]
  · exact keyedCommand_of_idle hidle
  · exact keyedCommand_of_idle hidle
  · exact fun _ hop => Nat.pos_of_ne_zero (hkey hop)

theorem keyedCommand_hostEffect {b : Block} (h : Block.KeyedCommand b) (hdr : Header) (data : Word) :
    Block.KeyedCommand (hostEffect hdr data b) := by
  rcases hostEffect_cases hdr data b with ⟨-, heffect⟩ | heffect | ⟨-, heffect⟩ | ⟨hidle, -, heffect⟩ <;> rw [heffect]
  · exact h
  · exact h
  · exact h
  · by_cases hcmd : hdr = 0x108#9
    · subst hcmd
      exact keyedCommand_issue hidle data
    · exact keyedCommand_of_idle ((registerWrite_busy hcmd data b).trans hidle)

/-- Settles O15. A host turn while busy writes neither `OPL` nor the key; acceptance has checked for one; Complete and
reset leave the block idle. -/
theorem everyStepKeepsTheKeyOfAKeyedCommand : Obligations.EveryStepKeepsTheKeyOfAKeyedCommand := by
  intro s t h hstep
  rcases step_cases hstep with ⟨hdr, data, rest, -, -, rfl⟩ | ⟨-, -, rfl⟩ | ⟨-, -, rfl⟩ | ⟨rest, -, rfl⟩
  · exact keyedCommand_hostEffect h hdr data
  · exact keyedCommand_of_idle rfl
  · exact h
  · exact keyedCommand_of_idle rfl

end Sys2Proof.Machine
end

section
/-! SUPPORT, O36, O37 and O39 to O42. What every step keeps (spec/10_state.md sections 2 and 3, spec/20_memory.md
section 6, spec/60_exceptions.md section 5): the error flags are sticky and read by nothing, and while busy the block
changes by Complete and reset only, but for the flags that a host turn sets or clears. -/

namespace Sys2Proof.Machine

/-! ### Stickiness, `BUSY` and the counter -/

/-- A host turn clears an error flag only as a write of `STATUS` with the flag's bit set. -/
theorem errorBit_hostEffect_cleared {hdr : Header} {data : Word} {b : Block} {e : ErrorFlag} (h : errorBit b e = true)
    (hclear : errorBit (hostEffect hdr data b) e = false) :
    hdr = 0x10C#9 ∧ data.getLsbD (ErrorFlag.code e) = true := by
  rcases hostEffect_cases hdr data b with ⟨hhdr, heffect⟩ | heffect | ⟨-, heffect⟩ | ⟨-, -, heffect⟩ <;>
    rw [heffect] at hclear
  · rw [errorBit_ackStatus, h, w1c, Bool.true_and, Bool.not_eq_false'] at hclear
    exact ⟨hhdr, hclear⟩
  · exact absurd (h.symm.trans hclear) (by decide)
  · rw [errorBit_raiseError, h] at hclear
    cases hclear
  · exact absurd ((errorBit_registerWrite h hdr data).symm.trans hclear) (by decide)

/-- Settles O36: of the steps that are no host turn only reset touches a flag. -/
theorem errorFlagsAreSticky : Obligations.ErrorFlagsAreSticky := by
  intro s t e hstep h hclear
  rcases step_cases hstep with ⟨hdr, data, rest, hs, -, rfl⟩ | ⟨-, -, rfl⟩ | ⟨-, -, rfl⟩ | ⟨rest, hs, -⟩
  · obtain ⟨rfl, hbit⟩ := errorBit_hostEffect_cleared h hclear
    exact .inr ⟨data, rest, hs, hbit⟩
  · rw [errorBit_finish, errorBit_effectOf, h] at hclear
    cases hclear
  · exact absurd (h.symm.trans hclear) (by decide)
  · exact .inl ⟨rest, hs⟩

/-- While busy a host turn leaves `BUSY`. -/
theorem hostEffect_busy {b : Block} (hbusy : b.busy = true) (hdr : Header) (data : Word) :
    (hostEffect hdr data b).busy = true := by
  rcases hostEffect_busy_cases hbusy hdr data with heffect | heffect | heffect <;> rw [heffect]
  · exact hbusy
  · exact hbusy
  · exact hbusy

/-- While idle a host turn that leaves the block busy is a write of `CMD` that is accepted. -/
theorem accepted_of_hostEffect_busy {hdr : Header} {data : Word} {b : Block} (hidle : b.busy = false)
    (hrise : (hostEffect hdr data b).busy = true) :
    hdr = 0x108#9 ∧ ∃ op, data = Opc.word op ∧ hostEffect hdr data b = accept op b := by
  have hkept : (hostEffect hdr data b).busy ≠ b.busy := by rw [hrise, hidle]; decide
  rcases hostEffect_cases hdr data b with ⟨-, heffect⟩ | heffect | ⟨-, heffect⟩ | ⟨-, -, heffect⟩ <;>
    rw [heffect] at hkept ⊢
  · exact absurd rfl hkept
  · exact absurd rfl hkept
  · exact absurd (raiseError_busy _ _) hkept
  · by_cases hcmd : hdr = 0x108#9
    · subst hcmd
      have hwrite : registerWrite 0x108#9 data b = issue data b := rfl
      rw [hwrite] at hkept ⊢
      rcases issue_cases data b with ⟨-, hissue⟩ | ⟨op, -, -, -, hissue⟩ | ⟨op, hop, -, hissue⟩ <;>
        rw [hissue] at hkept ⊢
      · exact absurd (raiseError_busy _ _) hkept
      · exact absurd (raiseError_busy _ _) hkept
      · exact ⟨rfl, op, hop, rfl⟩
    · exact absurd (registerWrite_busy hcmd data b) hkept

/-- Settles O41. -/
theorem busyFollowsTheSequencer : Obligations.BusyFollowsTheSequencer := by
  intro s t hstep
  refine ⟨fun hidle hrise => ?rises, fun hbusy hfall => ?falls⟩
  all_goals
    rcases step_cases hstep with
      ⟨hdr, data, rest, hs, -, rfl⟩ | ⟨hseq, hbusy', rfl⟩ | ⟨-, hidle', rfl⟩ | ⟨rest, hs, rfl⟩
  case rises.inl =>
    obtain ⟨rfl, op, rfl, haccept⟩ := accepted_of_hostEffect_busy hidle hrise
    refine ⟨Opc.word op, rest, hs, ?_, ?_, ?_⟩
    · have := Opc.toNat_code_le op
      rw [toNat_opcWord]
      omega
    · rw [toNat_opcWord, haccept, accept_opl]
    · rw [haccept, accept_done]
  case rises.inr.inl => exact absurd (hidle.symm.trans hbusy') (by decide)
  case rises.inr.inr.inl => exact absurd (hidle.symm.trans hrise) (by decide)
  case rises.inr.inr.inr => cases hrise
  case falls.inl => exact absurd ((hostEffect_busy hbusy hdr data).symm.trans hfall) (by decide)
  case falls.inr.inl =>
    rcases hseq with hs | ⟨rest, hs⟩
    · exact .inl hs
    · exact .inr ⟨rest, .inl hs⟩
  case falls.inr.inr.inl => exact absurd (hbusy.symm.trans hidle') (by decide)
  case falls.inr.inr.inr => exact .inr ⟨rest, .inr hs⟩

theorem hostEffect_ctr {hdr : Header} (hhi : hdr ≠ 0x110#9) (hlo : hdr ≠ 0x114#9) (data : Word) (b : Block) :
    (hostEffect hdr data b).ctr = b.ctr := by
  rcases hostEffect_cases hdr data b with ⟨-, heffect⟩ | heffect | ⟨-, heffect⟩ | ⟨-, -, heffect⟩ <;> rw [heffect]
  · exact ackStatus_ctr data b
  · exact raiseError_ctr _ _
  · exact registerWrite_ctr hhi hlo data b

/-- Of the commands only ZEROIZE writes the counter. -/
theorem effectOf_ctr {op : Opc} (hop : op ≠ .zeroize) (b : Block) : (effectOf op b).ctr = b.ctr := by
  cases op with
  | zeroize => exact absurd rfl hop
  | render => exact effectRender_ctr b
  | otp => exact effectRender_ctr _
  | nop | keyclr | hmac | trunc => rfl

/-- Settles O42. -/
theorem theBlockNeverAdvancesTheCounter : Obligations.TheBlockNeverAdvancesTheCounter := by
  intro s t hstep hctr
  rcases step_cases hstep with ⟨hdr, data, rest, hs, -, rfl⟩ | ⟨hseq, hbusy, rfl⟩ | ⟨-, -, rfl⟩ | ⟨rest, hs, -⟩
  · by_cases hhi : hdr = 0x110#9
    · exact .inl ⟨data, rest, .inl (hhi ▸ hs)⟩
    · by_cases hlo : hdr = 0x114#9
      · exact .inl ⟨data, rest, .inr (hlo ▸ hs)⟩
      · exact absurd (hostEffect_ctr hhi hlo data s.block) hctr
  · by_cases hop : s.block.opl = .zeroize
    · exact .inr (.inr ⟨hop, hbusy, hseq⟩)
    · exact absurd (effectOf_ctr hop s.block) hctr
  · exact absurd rfl hctr
  · exact .inr (.inl ⟨rest, hs⟩)

/-! ### Blocks that a host turn treats alike -/

/-- Two blocks that agree on what the checks of a transaction read, and that every single thing a transaction can do
takes to blocks in the relation `R`. -/
structure TreatedAlike (R : Block → Block → Prop) (b b' : Block) : Prop where
  busy_eq : b'.busy = b.busy
  keyLen_eq : b'.keyLen = b.keyLen
  same : R b b'
  raiseError : ∀ e, R (raiseError e b) (raiseError e b')
  ackStatus : ∀ data, R (ackStatus data b) (ackStatus data b')
  accept : ∀ op, R (accept op b) (accept op b')
  storeCfg : ∀ a d e, R { b with alg := a, digits := d, intEn := e } { b' with alg := a, digits := d, intEn := e }
  setCtrHi : ∀ data, R (setCtrHi data b) (setCtrHi data b')
  setCtrLo : ∀ data, R (setCtrLo data b) (setCtrLo data b')
  appendKey : ∀ x, R { b with key := b.key.write b.keyLen x, keyLen := b.keyLen + 1 }
    { b' with key := b'.key.write b.keyLen x, keyLen := b.keyLen + 1 }
  setValue : ∀ data, R (setValue data b) (setValue data b')
  setDigestWord : ∀ k data, R (setDigestWord k data b) (setDigestWord k data b')

section
variable {R : Block → Block → Prop} {b b' : Block} (h : TreatedAlike R b b')
include h

theorem TreatedAlike.writeCfg (data : Word) : R (writeCfg data b) (writeCfg data b') := by
  rw [Machine.writeCfg, Machine.writeCfg]
  cases cfgOfWord data with
  | none => exact h.raiseError .cfg
  | some c => exact h.storeCfg c.1 c.2.1 c.2.2

theorem TreatedAlike.issue (w : Word) : R (issue w b) (issue w b') := by
  rw [Machine.issue, Machine.issue, h.keyLen_eq]
  cases Opc.ofWord w with
  | none => exact h.raiseError .opcode
  | some op =>
    dsimp only
    split
    · exact h.raiseError .keyEmpty
    · exact h.accept op

theorem TreatedAlike.pushKey (data : Word) : R (pushKey data b) (pushKey data b') := by
  rw [Machine.pushKey, Machine.pushKey, h.keyLen_eq]
  split
  · exact h.raiseError .keyOvf
  · exact h.appendKey _

theorem TreatedAlike.registerWrite (hdr : Header) (data : Word) :
    R (registerWrite hdr data b) (registerWrite hdr data b') := by
  unfold Machine.registerWrite
  split_ifs
  · exact h.writeCfg data
  · exact h.issue data
  · exact h.setCtrHi data
  · exact h.setCtrLo data
  · exact h.pushKey data
  · exact h.setValue data
  · exact h.setDigestWord _ data

theorem TreatedAlike.hostEffect (hdr : Header) (data : Word) : R (hostEffect hdr data b) (hostEffect hdr data b') := by
  rw [Machine.hostEffect, Machine.hostEffect, h.busy_eq]
  split_ifs
  · exact h.ackStatus data
  · exact h.raiseError .busy
  · exact h.registerWrite hdr data
  · exact h.same

end

/-! ### Blocks that agree but for the error flags -/

/-- `b` with the error flags of `c`. -/
def Block.withErrors (b c : Block) : Block :=
  { b with
    errCfg := c.errCfg, errKeyEmpty := c.errKeyEmpty, errKeyOvf := c.errKeyOvf, errOpcode := c.errOpcode,
    errBusy := c.errBusy }

theorem SameButErrors.eq_withErrors {b b' : Block} (h : SameButErrors b b') : b' = b.withErrors b' := h.symm

theorem sameButErrors_refl (b : Block) : SameButErrors b b := rfl

section
variable {b b' : Block} (h : SameButErrors b b')
include h

theorem SameButErrors.symm : SameButErrors b' b := by
  rw [h.eq_withErrors]
  rfl

theorem SameButErrors.trans {b'' : Block} (h' : SameButErrors b' b'') : SameButErrors b b'' := by
  rw [h'.eq_withErrors, h.eq_withErrors]
  rfl

theorem SameButErrors.busy_eq : b'.busy = b.busy := by
  rw [h.eq_withErrors]
  rfl

theorem SameButErrors.opl_eq : b'.opl = b.opl := by
  rw [h.eq_withErrors]
  rfl

theorem SameButErrors.finish : SameButErrors (finish b) (finish b') := by
  rw [h.eq_withErrors]
  rfl

theorem SameButErrors.effectOf (op : Opc) : SameButErrors (effectOf op b) (effectOf op b') := by
  rw [h.eq_withErrors]
  cases op <;> rfl

theorem SameButErrors.treatedAlike : TreatedAlike SameButErrors b b' := by
  rw [h.eq_withErrors]
  exact {
    busy_eq := rfl
    keyLen_eq := rfl
    same := rfl
    raiseError := fun e => by cases e <;> rfl
    ackStatus := fun _ => rfl
    accept := fun _ => rfl
    storeCfg := fun _ _ _ => rfl
    setCtrHi := fun _ => rfl
    setCtrLo := fun _ => rfl
    appendKey := fun _ => rfl
    setValue := fun _ => rfl
    setDigestWord := fun _ _ => rfl }

/-- Of the words that a host turn reads only that of `STATUS` shows an error flag. -/
theorem SameButErrors.hostWord_eq {hdr : Header} (hstatus : hdr ≠ 0x00C#9) (old : Word) :
    hostWord hdr b old = hostWord hdr b' old := by
  rw [h.eq_withErrors, hostWord, hostWord, if_neg hstatus, if_neg hstatus]
  rfl

end

/-- Settles O37: both steps are of the same kind, since the turns and `BUSY` are the same, and the operation of each
kind keeps the agreement. -/
theorem noStepReadsAnErrorFlag : Obligations.NoStepReadsAnErrorFlag := by
  intro s s' t h hturns hrdata hstep
  rcases step_cases hstep with
    ⟨hdr, data, rest, hs, he, rfl⟩ | ⟨hseq, hbusy, rfl⟩ | ⟨hseq, hidle, rfl⟩ | ⟨rest, hs, rfl⟩
  · refine ⟨_, step_host (hturns.symm.trans hs) he, h.treatedAlike.hostEffect hdr data, rfl, fun hstatus => ?_⟩
    rw [← hrdata]
    exact h.hostWord_eq (fun hhdr => hstatus data rest (hhdr ▸ hs)) _
  · have hseq' : sequencerTurn s' := by rwa [sequencerTurn, ← hturns]
    refine ⟨_, step_complete hseq' (h.busy_eq.trans hbusy), ?_, congrArg List.tail hturns, fun _ => hrdata⟩
    rw [h.opl_eq]
    exact (h.effectOf s.block.opl).finish
  · have hseq' : sequencerTurn s' := by rwa [sequencerTurn, ← hturns]
    exact ⟨_, step_sequencer_idle hseq' (h.busy_eq.trans hidle), h, congrArg List.tail hturns, fun _ => hrdata⟩
  · exact ⟨_, step_reset (hturns.symm.trans hs), sameButErrors_refl _, rfl, fun _ => hrdata⟩

/-! ### Host turns while busy -/

/-- While busy a host turn changes error flags only and can clear `DONE`. -/
theorem hostEffect_busy_frame {b : Block} (hbusy : b.busy = true) (hdr : Header) (data : Word) :
    SameButErrors { b with done := (hostEffect hdr data b).done } (hostEffect hdr data b) ∧
      ((hostEffect hdr data b).done = true → b.done = true) := by
  rcases hostEffect_busy_cases hbusy hdr data with heffect | heffect | heffect <;> rw [heffect]
  · exact ⟨rfl, fun hdone => (Bool.and_eq_true_iff.mp hdone).1⟩
  · exact ⟨rfl, id⟩
  · exact ⟨rfl, id⟩

/-- Settles O39. -/
theorem transactionsLeaveARunningCommandAlone : Obligations.TransactionsLeaveARunningCommandAlone := by
  intro s t hdr data rest hs hbusy hstep
  obtain ⟨-, rfl⟩ := step_host_next hs hstep
  exact hostEffect_busy_frame hbusy hdr data

/-- Complete overwrites `DONE`, which no command's effect reads. -/
theorem finish_effectOf_done (op : Opc) (b : Block) (d : Bool) :
    finish (effectOf op { b with done := d }) = finish (effectOf op b) := by cases op <;> rfl

/-- A host turn while busy does not change what Complete will leave, but for the error flags. -/
theorem finish_effectOf_hostEffect {b : Block} (hbusy : b.busy = true) (hdr : Header) (data : Word) :
    SameButErrors (finish (effectOf (hostEffect hdr data b).opl (hostEffect hdr data b)))
      (finish (effectOf b.opl b)) := by
  have hframe := (hostEffect_busy_frame hbusy hdr data).1
  have hend := (hframe.effectOf b.opl).finish
  rw [finish_effectOf_done] at hend
  rw [hframe.opl_eq]
  exact hend.symm

/-- The host turns before Complete, by induction on their number. -/
theorem run_delayed_complete {s : State} {delay rest : List Turn} (hbusy : s.block.busy = true)
    (hdelay : ∀ x ∈ delay, ∃ hdr data, x = Turn.host hdr data ∧ hdr.toNat % 4 = 0)
    (hs : s.turns = delay ++ .sequencer :: rest) :
    ∃ t, Sys2Proof.core.run (delay.length + 1) s = .next t ∧ t.turns = rest ∧ t.block.busy = false ∧
      SameButErrors t.block (finish (effectOf s.block.opl s.block)) := by
  induction delay generalizing s with
  | nil =>
    refine ⟨_, run_next (step_complete (.inr ⟨rest, hs⟩) hbusy) 0, ?_, rfl, sameButErrors_refl _⟩
    rw [hs]
    rfl
  | cons x delay ih =>
    rw [List.forall_mem_cons] at hdelay
    obtain ⟨⟨hdr, data, rfl, halign⟩, hdelay⟩ := hdelay
    have hstep := step_host (rest := delay ++ .sequencer :: rest) hs (headerExists_of_mod_four halign)
    obtain ⟨t, hrun, hturns, hidle, hsame⟩ :=
      ih (s := ⟨hostEffect hdr data s.block, hostWord hdr s.block s.rdata, delay ++ .sequencer :: rest⟩)
        (hostEffect_busy hbusy hdr data) hdelay rfl
    exact ⟨t, (run_next hstep _).trans hrun, hturns, hidle, hsame.trans (finish_effectOf_hostEffect hbusy hdr data)⟩

/-- Settles O40. -/
theorem resultsDoNotDependOnTheDelay : Obligations.ResultsDoNotDependOnTheDelay := by
  intro s delay rest hbusy hdelay hs
  obtain ⟨t, hrun, hturns, hidle, hsame⟩ := run_delayed_complete hbusy hdelay hs
  exact ⟨t, _, hrun, step_complete (s := { s with turns := .sequencer :: rest }) (.inr ⟨rest, rfl⟩) hbusy, hturns,
    hidle, hsame⟩

end Sys2Proof.Machine
end

section
/-! SUPPORT and O38. Blocks that agree but for the bytes of the key (spec/10_state.md section 5): no host turn writes
anything else from them, and no word that a host turn reads shows one. -/

namespace Sys2Proof.Machine

/-- `b` with the key bytes `m`. -/
def Block.withKey (b : Block) (m : Memory) : Block := { b with key := m }

theorem SameButKey.eq_withKey {b b' : Block} (h : SameButKey b b') : b' = b.withKey b'.key := h.symm

section
variable {b b' : Block} (h : SameButKey b b')
include h

theorem SameButKey.treatedAlike : TreatedAlike SameButKey b b' := by
  rw [h.eq_withKey]
  exact {
    busy_eq := rfl
    keyLen_eq := rfl
    same := rfl
    raiseError := fun e => by cases e <;> rfl
    ackStatus := fun _ => rfl
    accept := fun _ => rfl
    storeCfg := fun _ _ _ => rfl
    setCtrHi := fun _ => rfl
    setCtrLo := fun _ => rfl
    appendKey := fun _ => rfl
    setValue := fun _ => rfl
    setDigestWord := fun _ _ => rfl }

/-- No word that a host turn reads is computed from a key byte. -/
theorem SameButKey.hostWord_eq (hdr : Header) (old : Word) : hostWord hdr b old = hostWord hdr b' old := by
  rw [h.eq_withKey]
  rfl

end

/-- Settles O38. -/
theorem noTransactionShowsAKeyByte : Obligations.NoTransactionShowsAKeyByte := by
  intro s s' t hdr data rest hs h hturns hrdata hstep
  obtain ⟨he, rfl⟩ := step_host_next hs hstep
  refine ⟨_, step_host (hturns.symm.trans hs) he, h.treatedAlike.hostEffect hdr data, rfl, ?_⟩
  rw [← hrdata]
  exact h.hostWord_eq hdr _

end Sys2Proof.Machine
end

section
/-! SUPPORT, O34, O43 and O44. What a register reads as after its write, `irq`, and what the commands do not write. -/

namespace Sys2Proof.Machine

/-! ### Reads after writes -/

theorem valueWord_setValue (data : Word) (b : Block) : valueWord (setValue data b) = data &&& 0x7FFFFFFF#32 := by
  apply BitVec.eq_of_toNat_eq
  rw [toNat_valueWord, setValue_value, toNat_lowField, BitVec.toNat_and]
  exact (Nat.and_two_pow_sub_one_eq_mod data.toNat 31).symm

theorem digestWord_setDigestWord {b : Block} (hwf : b.dg.wf dgSize = true) (k : BitVec 4) (data : Word) :
    digestWord (setDigestWord k data b) k = data := by
  have hbyte {n : Nat} (hn : n < 4) :
      ((setDigestWord k data b).dg.read (4 * k.toNat + n)).toNat = data.toNat / 256 ^ (3 - n) % 256 := by
    have hmod : (4 * k.toNat + n) % 4 = n := by omega
    rw [setDigestWord_dg, toNat_read_writeBytes_bytesBe (Memory.wf_iff.mp hwf).1, if_pos (by omega), hmod]
  have h0 := hbyte (n := 0) (by decide)
  rw [Nat.add_zero] at h0
  apply BitVec.eq_of_toNat_eq
  rw [toNat_digestWord, bigEndian4, h0, hbyte (by decide), hbyte (by decide), hbyte (by decide)]
  omega

/-- The three fields of a configuration word, put back at their places, are the word without its other bits. -/
theorem cfgWord_of_fields {data : Word} {b : Block} (halg : b.alg.code = data.extractLsb' 0 2)
    (hdigits : b.digits = data.extractLsb' 4 4) (hintEn : b.intEn = data.getLsbD 8) :
    cfgWord b = data &&& 0x000001F3#32 := by
  rw [cfgWord, halg, hdigits, hintEn]
  apply BitVec.eq_of_getLsbD_eq
  intro i hi
  rw [BitVec.getLsbD_or, BitVec.getLsbD_or, getLsbD_shiftLeft_bitWord (by decide), BitVec.getLsbD_and]
  interval_cases i <;> simp

theorem cfgWord_writeCfg {data : Word} (h : ¬(data.toNat % 4 = 3 ∨ data.toNat / 16 % 16 < 6)) (b : Block) :
    cfgWord (writeCfg data b) = data &&& 0x000001F3#32 := by
  obtain ⟨⟨a, d, e⟩, hcfg⟩ := Option.ne_none_iff_exists'.mp (mt (cfgOfWord_none data).mp h)
  obtain ⟨halg, hdigits, hintEn⟩ := cfgOfWord_some hcfg
  rw [writeCfg, hcfg]
  refine cfgWord_of_fields ?_ ?_ hintEn
  · exact BitVec.eq_of_toNat_eq (by rw [toNat_lowField]; exact halg)
  · exact BitVec.eq_of_toNat_eq (by rw [toNat_field]; exact hdigits ▸ BitVec.toNat_ofNat ..)

/-- A read after a write of `WR_SET` while idle: the word of the register that the write leaves. -/
theorem read_after_write {i r : Instr} {f : Block → Block} {g : Block → Word} {s : State} {w : Word}
    (hidle : s.block.busy = false) (hi : exec i s = hostWrite f s) (hr : ∀ t, exec r t = hostRead g t)
    (hw : g (f s.block) = w) : ∃ t, exec i s = .next t ∧ exec r t = .next { t with rdata := w } := by
  refine ⟨_, hi.trans (hostWrite_idle hidle f), ?_⟩
  rw [hr, hostRead_next, ← hw]

/-- Settles O34: the word of each register undoes its write, but for the bits that the write discards. -/
theorem readsReturnTheLastWrite : Obligations.ReadsReturnTheLastWrite := fun s data k hidle hwf =>
  ⟨read_after_write hidle rfl (fun _ => rfl) (ctrHi_setCtrHi data s.block),
    read_after_write hidle rfl (fun _ => rfl) (ctrLo_setCtrLo data s.block),
    read_after_write hidle rfl (fun _ => rfl) (valueWord_setValue data s.block),
    read_after_write hidle (g := (digestWord · k)) rfl (fun _ => rfl) (digestWord_setDigestWord hwf k data),
    fun h => read_after_write hidle rfl (fun _ => rfl) (cfgWord_writeCfg h s.block)⟩

/-! ### What no command writes -/

theorem effectOf_cfg (op : Opc) (b : Block) :
    (effectOf op b).alg = b.alg ∧ (effectOf op b).digits = b.digits ∧ (effectOf op b).intEn = b.intEn := by
  cases op <;> simp [effectOf, effectOtp]

theorem effectOf_opl (op : Opc) (b : Block) : (effectOf op b).opl = b.opl := by
  cases op <;> simp [effectOf, effectOtp]

theorem effectOf_key {op : Opc} (hop : op ∉ [.keyclr, .zeroize]) (b : Block) :
    (effectOf op b).key = b.key ∧ (effectOf op b).keyLen = b.keyLen := by
  cases op <;> simp [effectOf, effectOtp] at hop ⊢

theorem effectOf_dg {op : Opc} (hop : op ∉ [.hmac, .otp, .zeroize]) (b : Block) : (effectOf op b).dg = b.dg := by
  cases op <;> simp [effectOf] at hop ⊢

theorem effectOf_value {op : Opc} (hop : op ∉ [.trunc, .otp, .zeroize]) (b : Block) :
    (effectOf op b).value = b.value ∧ (effectOf op b).offset = b.offset := by
  cases op <;> simp [effectOf] at hop ⊢

theorem effectOf_dig {op : Opc} (hop : op ∉ [.render, .otp, .zeroize]) (b : Block) :
    (effectOf op b).dig = b.dig ∧ (effectOf op b).pwdLen = b.pwdLen := by
  cases op <;> simp [effectOf] at hop ⊢

/-- Settles O44: Complete is the command's effect, then the handshake. -/
theorem commandsWriteOnlyTheirResults : Obligations.CommandsWriteOnlyTheirResults := by
  intro s op
  obtain ⟨halg, hdigits, hintEn⟩ := effectOf_cfg op s.block
  exact ⟨_, exec_command op s, rfl, rfl, rfl, rfl, effectOf_opl op s.block, halg, hdigits, hintEn,
    fun e => (errorBit_finish _ e).trans (errorBit_effectOf op s.block e), fun hop => effectOf_key hop s.block,
    fun hop => effectOf_ctr hop s.block, fun hop => effectOf_dg hop s.block, fun hop => effectOf_value hop s.block,
    fun hop => effectOf_dig hop s.block⟩

/-! ### The interrupt -/

theorem irq_finish_effectOf (op : Opc) (b : Block) : irq (finish (effectOf op b)) = b.intEn := by
  rw [irq, finish_done, Bool.and_true, finish_intEn, (effectOf_cfg op b).2.2]

/-- A write of `CMD` while idle leaves `DONE` set exactly when the command is rejected. -/
theorem irq_issue {b : Block} (hidle : b.busy = false) (w : Word) :
    irq (issue w b) = (b.intEn && !(issue w b).busy) := by
  rcases issue_cases w b with ⟨-, hissue⟩ | ⟨op, -, -, -, hissue⟩ | ⟨op, -, -, hissue⟩ <;> rw [hissue, irq]
  · rw [raiseError_intEn, raiseError_done, raiseError_busy, hidle]
    exact congrArg _ (Bool.or_true _)
  · rw [raiseError_intEn, raiseError_done, raiseError_busy, hidle]
    exact congrArg _ (Bool.or_true _)
  · rfl

/-- Settles O43. -/
theorem interruptFollowsDoneAndEnable : Obligations.InterruptFollowsDoneAndEnable :=
  ⟨fun s op => ⟨_, exec_command op s, irq_finish_effectOf op s.block⟩,
    fun _ data hidle => ⟨_, exec_wrCmd_idle hidle data, irq_issue hidle data⟩,
    fun _ _ hdata => ⟨_, rfl, irq_ackStatus hdata _⟩⟩

end Sys2Proof.Machine
end

section
/-! SUPPORT, O48, O50, O51 and O53 to O57. The functions that the commands compute (spec/41_truncate.md section 3,
spec/42_render.md section 2, spec/43_hmac.md section 1, spec/44_sha.md sections 1 to 4). -/

namespace Sys2Proof.Machine

/-! ### Truncation -/

/-- A big-endian word is its four bytes. -/
theorem be32_congr {d d' : List Byte} {i : Nat} (h : ∀ k < 4, byteAt d (i + k) = byteAt d' (i + k)) :
    be32 d i = be32 d' i := by
  have h0 : byteAt d i = byteAt d' i := h 0 (by decide)
  rw [be32, be32, h0, h 1 (by decide), h 2 (by decide), h 3 (by decide)]

/-- Settles O48: the offset is at most 15, so the window ends at byte 18. -/
theorem truncationReadsOnlyItsBytes : Obligations.TruncationReadsOnlyItsBytes := by
  intro d d' hlen hlen' hbytes hlast
  have hoffset : (byteAt d (d.length - 1)).extractLsb' 0 4 = (byteAt d' (d'.length - 1)).extractLsb' 0 4 := by
    apply BitVec.eq_of_toNat_eq
    rw [toNat_lowField, toNat_lowField, ← hlen']
    exact hlast
  have hword : be32 d ((byteAt d (d.length - 1)).extractLsb' 0 4).toNat =
      be32 d' ((byteAt d (d.length - 1)).extractLsb' 0 4).toNat :=
    be32_congr fun k hk => hbytes _ (by omega)
  rw [hoffset] at hword
  simp only [dynamicTruncation, hoffset, hword]

/-! ### Rendering -/

/-- A digit is one of the whole value: reducing it modulo `10 ^ d` first changes no digit below position `d`. -/
theorem renderDigit_eq (v : Nat) {d i : Nat} (hi : i < d) : renderDigit v d i = v / 10 ^ (d - 1 - i) % 10 := by
  have hpow : 10 ^ d = 10 ^ (d - 1 - i) * 10 ^ (i + 1) := by
    rw [← Nat.pow_add]
    congr 1
    omega
  rw [renderDigit, hpow, Nat.mod_mul_right_div_self, Nat.mod_mod_of_dvd _ (dvd_pow_self 10 (Nat.succ_ne_zero i))]

theorem renderFn_succ (v d : Nat) : renderFn v (d + 1) = renderFn (v / 10) d ++ [v % 10] := by
  rw [renderFn, List.range_succ, List.map_append, renderFn]
  congr 1
  · refine List.map_congr_left fun i hi => ?_
    have hi := List.mem_range.mp hi
    have hexp : d + 1 - 1 - i = d - 1 - i + 1 := by omega
    rw [renderDigit_eq v (by omega), renderDigit_eq (v / 10) hi, hexp, Nat.pow_succ, Nat.mul_comm,
      Nat.div_div_eq_div_mul]
  · rw [List.map_singleton, renderDigit_eq v (by omega), Nat.add_sub_cancel, Nat.sub_self, Nat.pow_zero, Nat.div_one]

/-- Settles O51, by induction on the number of digits. -/
theorem renderingByRepeatedDivisionAgrees : Obligations.RenderingByRepeatedDivisionAgrees := by
  intro v d
  induction d generalizing v with
  | zero => rfl
  | succ d ih => rw [digitsByDivision, renderFn_succ, ih]

theorem numericValue_append_singleton (ds : List Nat) (x : Nat) :
    numericValue (ds ++ [x]) = 10 * numericValue ds + x := by
  rw [numericValue, List.foldl_append, List.foldl_cons, List.foldl_nil, numericValue]

theorem numericValue_renderFn (v d : Nat) : numericValue (renderFn v d) = v % 10 ^ d := by
  induction d generalizing v with
  | zero => exact (Nat.mod_one v).symm
  | succ d ih => rw [renderFn_succ, numericValue_append_singleton, ih, Nat.pow_succ', Nat.mod_mul, Nat.add_comm]

theorem length_renderFn (v d : Nat) : (renderFn v d).length = d := by rw [renderFn, List.length_map, List.length_range]

theorem le_nine_of_mem_renderFn {v d g : Nat} (h : g ∈ renderFn v d) : g ≤ 9 := by
  obtain ⟨i, -, rfl⟩ := List.mem_map.mp h
  exact Nat.le_of_lt_succ (renderDigit_lt v d i)

/-- The valid digits that RENDER leaves are those of `RENDER_FN`. -/
theorem passwordDigits_effectRender (b : Block) :
    passwordDigits (effectRender b) = renderFn b.value.toNat b.digits.toNat := by
  rw [passwordDigits, effectRender_pwdLen, renderFn]
  refine List.map_congr_left fun i hi => ?_
  have hi := List.mem_range.mp hi
  rw [toNat_digit_effectRender b (by omega), if_pos hi]

theorem passwordDigits_finish (b : Block) : passwordDigits (finish b) = passwordDigits b := rfl

/-- Settles O50. -/
theorem renderedPasswordIsTheValueModuloPowerOfTen : Obligations.RenderedPasswordIsTheValueModuloPowerOfTen := by
  refine fun s => ⟨_, exec_command .render s, ?_⟩
  rw [effectOf, passwordDigits_finish, passwordDigits_effectRender]
  exact ⟨length_renderFn _ _, fun _ => le_nine_of_mem_renderFn, numericValue_renderFn _ _⟩

/-! ### HMAC -/

/-- Settles O53. -/
theorem hmacHasTheDigestLength : Obligations.HmacHasTheDigestLength := fun key m =>
  ⟨length_hmac .sha1 key m, length_hmac .sha256 key m, length_hmac .sha512 key m⟩

theorem length_zeros (n : Nat) : (zeros n).length = n := List.length_replicate

/-- Zeros added at the end show nowhere: what lies past the end of a sequence reads as 0. -/
theorem byteAt_append_zeros (l : List Byte) (n i : Nat) : byteAt (l ++ zeros n) i = byteAt l i := by
  simp only [byteAt, List.getD]
  by_cases hi : i < l.length
  · rw [List.getElem?_append_left hi]
  · rw [List.getElem?_append_right (by omega), zeros, List.getElem?_replicate, List.getElem?_eq_none (by omega)]
    split <;> rfl

theorem hmacKeyBlock_long {alg : Alg} {key : List Byte} (h : alg.blockLen < key.length) :
    hmacKeyBlock alg key = hashOf alg key ++ zeros (alg.blockLen - alg.digestLen) := by
  rw [hmacKeyBlock, if_pos h, length_hashOf]

theorem hmacKeyBlock_short {alg : Alg} {key : List Byte} (h : key.length ≤ alg.blockLen) :
    hmacKeyBlock alg key = key ++ zeros (alg.blockLen - key.length) := by
  rw [hmacKeyBlock, if_neg (Nat.not_lt.mpr h)]

theorem digestLen_le_blockLen (alg : Alg) : alg.digestLen ≤ alg.blockLen := by cases alg <;> decide

theorem length_hmacKeyBlock (alg : Alg) (key : List Byte) : (hmacKeyBlock alg key).length = alg.blockLen := by
  rcases Nat.lt_or_ge alg.blockLen key.length with hlong | hshort
  · have := digestLen_le_blockLen alg
    rw [hmacKeyBlock_long hlong, List.length_append, length_hashOf, length_zeros]
    omega
  · rw [hmacKeyBlock_short hshort, List.length_append, length_zeros]
    omega

/-- The key enters HMAC by its block only. -/
theorem hmac_congr {alg : Alg} {key key' : List Byte} (h : hmacKeyBlock alg key = hmacKeyBlock alg key')
    (m : List Byte) : hmac alg key m = hmac alg key' m := by
  rw [hmac, hmac, h]

/-- Settles O54: the key block is the one of R161. -/
theorem hmacFollowsItsConstruction : Obligations.HmacFollowsItsConstruction := by
  refine ⟨⟨rfl, rfl, rfl⟩, fun alg key m => ⟨hmacKeyBlock alg key, length_hmacKeyBlock alg key, fun i _ => ?_, rfl⟩⟩
  rw [length_hmacKeyBlock]
  exact byteAt_append_zeros _ _ i

/-- Settles O55: in both cases the two keys have the same key block. -/
theorem longKeysAreHashedAndShortKeysPadded : Obligations.LongKeysAreHashedAndShortKeysPadded := by
  refine fun alg key m n => ⟨fun hlong => hmac_congr ?_ m, fun hfit => hmac_congr ?_ m⟩
  · have hhash : (hashOf alg key).length ≤ alg.blockLen := (length_hashOf alg key).trans_le (digestLen_le_blockLen alg)
    rw [hmacKeyBlock_long hlong, hmacKeyBlock_short hhash, length_hashOf]
  · have hpadded : (key ++ zeros n).length = key.length + n := by rw [List.length_append, length_zeros]
    have hzeros : n + (alg.blockLen - (key.length + n)) = alg.blockLen - key.length := by omega
    rw [hmacKeyBlock_short (hpadded.trans_le hfit), hmacKeyBlock_short (by omega), hpadded, List.append_assoc, zeros,
      zeros, List.replicate_append_replicate, hzeros, zeros]

/-! ### The padded message -/

theorem length_padMessage (bk q : Nat) (m : List Byte) :
    (padMessage bk q m).length = m.length + 1 + padZeros bk q m.length + q := by
  simp only [padMessage, List.length_append, length_zeros, length_bytesBe, List.length_singleton]

theorem padZeros_fills {bk : Nat} (hbk : 0 < bk) (q n : Nat) : (n + 1 + q + padZeros bk q n) % bk = 0 := by
  have hmod : (n + 1 + q) % bk < bk := Nat.mod_lt _ hbk
  have hdiv := Nat.div_add_mod (n + 1 + q) bk
  rw [padZeros, Nat.add_mod_mod]
  calc (n + 1 + q + (bk - (n + 1 + q) % bk)) % bk
    _ = (bk * ((n + 1 + q) / bk + 1)) % bk := by congr 1; rw [Nat.mul_add]; omega
    _ = 0 := Nat.mul_mod_right _ _

/-- Every number of zero bytes that fills whole blocks has the same remainder, and `z` is that remainder. -/
theorem padZeros_least {bk : Nat} (hbk : 0 < bk) {q n z : Nat} (hz : (n + 1 + q + z) % bk = 0) :
    padZeros bk q n ≤ z := by
  have hsame : padZeros bk q n ≡ z [MOD bk] :=
    Nat.ModEq.add_left_cancel' (n + 1 + q) ((padZeros_fills hbk q n).trans hz.symm)
  calc padZeros bk q n
    _ = padZeros bk q n % bk := (Nat.mod_eq_of_lt (Nat.mod_lt _ hbk)).symm
    _ = z % bk := hsame
    _ ≤ z := Nat.mod_le _ _

theorem byteAt_append_left {l : List Byte} {i : Nat} (h : i < l.length) (r : List Byte) :
    byteAt (l ++ r) i = byteAt l i := List.getD_append _ _ _ _ h

theorem byteAt_append_right {l : List Byte} {n : Nat} (h : l.length = n) (r : List Byte) (i : Nat) :
    byteAt (l ++ r) (n + i) = byteAt r i := by
  rw [byteAt, List.getD_append_right _ _ _ _ (by omega), h, Nat.add_sub_cancel_left, byteAt]

/-- A byte of the length field. -/
theorem toNat_byteAt_bytesBe_ofNat {q i : Nat} (hi : i < q) (n : Nat) :
    (byteAt (bytesBe (BitVec.ofNat (8 * q) n) q) i).toNat = n / 256 ^ (q - 1 - i) % 256 := by
  have hpow : 2 ^ (8 * q) = 2 ^ (8 * (q - 1 - i)) * 2 ^ (8 * (i + 1)) := by
    rw [← Nat.pow_add]
    congr 1
    omega
  rw [byteAt_bytesBe, if_pos hi, toNat_field, BitVec.toNat_ofNat, hpow, Nat.mod_mul_right_div_self,
    Nat.mod_mod_of_dvd _ (Nat.pow_dvd_pow 2 (by omega)), Nat.pow_mul]

/-- Settles O56. The message is padded in four parts, and each clause reads one of them. -/
theorem paddedMessageFillsWholeBlocks : Obligations.PaddedMessageFillsWholeBlocks := by
  intro bk q m hbk
  have hhead : (m ++ [0x80#8]).length = m.length + 1 := by rw [List.length_append, List.length_singleton]
  have hsplit : padMessage bk q m = (m ++ [0x80#8]) ++
      (zeros (padZeros bk q m.length) ++ bytesBe (BitVec.ofNat (8 * q) (8 * m.length)) q) := by
    rw [padMessage, List.append_assoc (m ++ [0x80#8])]
  have hfill (z : Nat) : m.length + 1 + z + q = m.length + 1 + q + z := by omega
  refine ⟨padZeros bk q m.length, length_padMessage bk q m, ?blocks, fun z' hz' => ?least, ?message, fun i hi => ?zeros,
    fun i hi => ?length⟩
  case blocks => rw [length_padMessage, hfill, padZeros_fills hbk]
  case least => exact padZeros_least hbk (by rw [← hfill, hz'])
  case message => rw [hsplit, List.take_left' hhead]
  case zeros =>
    rw [hsplit, byteAt_append_right hhead, byteAt_append_left (by rwa [length_zeros])]
    exact byteAt_append_zeros [] _ i
  case length =>
    rw [hsplit, Nat.add_assoc, byteAt_append_right hhead, byteAt_append_right (length_zeros _)]
    exact toNat_byteAt_bytesBe_ofNat hi _

/-! ### The message schedules -/

section
variable {w : Nat} (next : List (BitVec w) → BitVec w)

theorem extendSchedule_succ (n : Nat) (ws : List (BitVec w)) :
    extendSchedule next (n + 1) ws = next (extendSchedule next n ws) :: extendSchedule next n ws := by
  induction n generalizing ws with
  | zero => rfl
  | succ n ih => rw [extendSchedule, ih, extendSchedule]

/-- One word more, computed from the words before it, the newest first. -/
theorem schedule_succ (n : Nat) (block : List (BitVec w)) :
    schedule next (n + 1) block = schedule next n block ++ [next (schedule next n block).reverse] := by
  rw [schedule, extendSchedule_succ, List.reverse_cons, schedule, List.reverse_reverse]

theorem length_schedule (n : Nat) (block : List (BitVec w)) : (schedule next n block).length = block.length + n := by
  induction n with
  | zero => rw [schedule, extendSchedule, List.reverse_reverse, Nat.add_zero]
  | succ n ih => rw [schedule_succ, List.length_append, ih, List.length_singleton, Nat.add_assoc]

/-- `W[t-k]` of a whole schedule read from its end. -/
theorem back_reverse (ws : List (BitVec w)) {k : Nat} (hk : 0 < k) (hlen : k ≤ ws.length) :
    back ws.reverse k = ws.getD (ws.length - k) 0 := by
  have hindex : ws.length - 1 - (k - 1) = ws.length - k := by omega
  simp only [back, List.getD]
  rw [List.getElem?_reverse (by omega), hindex]

/-- Every word of the block is a word of the schedule, and every later word is `next` of the words before it. -/
theorem schedule_getD (n : Nat) (block : List (BitVec w)) :
    (∀ t, t < block.length → (schedule next n block).getD t 0 = block.getD t 0) ∧
    ∀ t, block.length ≤ t → t < block.length + n → ∃ ws, (schedule next n block).getD t 0 = next ws ∧
      ∀ k, 0 < k → k ≤ t → back ws k = (schedule next n block).getD (t - k) 0 := by
  induction n with
  | zero =>
    refine ⟨fun t _ => ?_, fun t hle hlt => absurd hlt (by omega)⟩
    rw [schedule, extendSchedule, List.reverse_reverse]
  | succ n ih =>
    obtain ⟨hblock, hnext⟩ := ih
    have hlen := length_schedule next n block
    have hold {t : Nat} (ht : t < block.length + n) :
        (schedule next (n + 1) block).getD t 0 = (schedule next n block).getD t 0 := by
      rw [schedule_succ, List.getD_append _ _ _ _ (by omega)]
    refine ⟨fun t ht => (hold (by omega)).trans (hblock t ht), fun t hle hlt => ?_⟩
    by_cases ht : t < block.length + n
    · obtain ⟨ws, hws, hback⟩ := hnext t hle ht
      exact ⟨ws, (hold ht).trans hws, fun k hk hkt => (hback k hk hkt).trans (hold (by omega)).symm⟩
    · obtain rfl : t = (schedule next n block).length := by omega
      refine ⟨(schedule next n block).reverse, ?_, fun k hk hkt => ?_⟩
      · rw [schedule_succ, List.getD_append_right _ _ _ _ (Nat.le_refl _), Nat.sub_self, List.getD_cons_zero]
      · rw [back_reverse _ hk hkt, hold (by omega)]

end

/-- Settles O57: both recurrences are what `next` computes from the last 16 words. -/
theorem messageSchedulesFollowTheirRecurrences : Obligations.MessageSchedulesFollowTheirRecurrences := by
  refine ⟨fun n block hlen => ?sha1, fun w n p block hlen => ?sha2⟩
  case sha1 =>
    obtain ⟨hblock, hnext⟩ := schedule_getD sha1Next n block
    rw [hlen] at hblock hnext
    refine ⟨(length_schedule ..).trans (by rw [hlen]), hblock, fun t hle hlt => ?_⟩
    obtain ⟨ws, hws, hback⟩ := hnext t hle hlt
    refine hws.trans ?_
    rw [sha1Next, hback 3 (by omega) (by omega), hback 8 (by omega) (by omega), hback 14 (by omega) (by omega),
      hback 16 (by omega) (by omega)]
    rfl
  case sha2 =>
    obtain ⟨hblock, hnext⟩ := schedule_getD (sha2Next p) n block
    rw [hlen] at hblock hnext
    refine ⟨(length_schedule ..).trans (by rw [hlen]), hblock, fun t hle hlt => ?_⟩
    obtain ⟨ws, hws, hback⟩ := hnext t hle hlt
    refine hws.trans ?_
    rw [sha2Next, hback 2 (by omega) (by omega), hback 7 (by omega) (by omega), hback 15 (by omega) (by omega),
      hback 16 (by omega) (by omega)]

end Sys2Proof.Machine
end

section
/-! SUPPORT and O59. The host's driver on the block (spec/48_host_software.md R253, R255): what each of its sequences
leaves of an idle block, what its reads return, and from them construction and one password. -/

namespace Sys2Proof.Machine

/-! ### The driver's writes -/

theorem runTurn_turnWr {off : Nat} (he : headerExists (BitVec.ofNat 9 (0x100 + off)) = true)
    (hwe : Header.we (BitVec.ofNat 9 (0x100 + off)) = true) (data : Word) (s : State) :
    runTurn (turnWr off data) s =
      some { s with block := hostEffect (BitVec.ofNat 9 (0x100 + off)) data s.block } := by
  rw [turnWr, runTurn_host he, hostWord, if_pos hwe]

/-- A write of a register of `WR_SET` to an idle block. -/
theorem runTurn_registerWrite {off : Nat} {f : Block → Block} {data : Word}
    (he : headerExists (BitVec.ofNat 9 (0x100 + off)) = true)
    (hreg : isRegisterWrite (BitVec.ofNat 9 (0x100 + off)) = true)
    (hf : registerWrite (BitVec.ofNat 9 (0x100 + off)) data = f) {s : State} (hidle : s.block.busy = false) :
    runTurn (turnWr off data) s = some { s with block := f s.block } := by
  rw [runTurn_turnWr he ((isRegisterWrite_iff _ he).mp hreg).1, hostEffect_idle hreg hidle, hf]

theorem runTurns_cons {t : Turn} {s s' : State} (h : runTurn t s = some s') (ts : List Turn) :
    runTurns (t :: ts) s = runTurns ts s' := by
  rw [runTurns, h, Option.bind_some]

theorem runTurns_append_of {ts : List Turn} {s s' : State} (h : runTurns ts s = some s') (us : List Turn) :
    runTurns (ts ++ us) s = runTurns us s' := by
  rw [runTurns_append, h, Option.bind_some]

theorem runTurns_seqClrst (s : State) :
    runTurns seqClrst s = some { s with block := ackStatus 0x00001F02#32 s.block } :=
  runTurns_cons (runTurn_turnWr (off := 0x0C) rfl rfl _ s) []

/-- `CLRST` clears every flag. -/
theorem errorBit_seqClrst (b : Block) (e : ErrorFlag) : errorBit (ackStatus 0x00001F02#32 b) e = false := by
  rw [errorBit_ackStatus, w1c]
  cases e <;> exact Bool.and_false _

/-- `KEY` pushes byte after byte. -/
def pushAll (bytes : List Byte) (b : Block) : Block := bytes.foldl (fun b x => pushKey (x.zeroExtend 32) b) b

theorem pushAll_cons (x : Byte) (bytes : List Byte) (b : Block) :
    pushAll (x :: bytes) b = pushAll bytes (pushKey (x.zeroExtend 32) b) := rfl

theorem pushKey_busy (data : Word) (b : Block) : (pushKey data b).busy = b.busy :=
  registerWrite_busy (hdr := 0x118#9) (by decide) data b

section
variable {s : State} (hidle : s.block.busy = false)
include hidle

theorem runTurns_seqCmd (op : Opc) :
    runTurns (seqCmd op) s = some { s with block := issue (Opc.word op) s.block } :=
  runTurns_cons (runTurn_registerWrite (off := 0x08) rfl rfl rfl hidle) []

theorem runTurns_seqCmd_accept {op : Opc} (hkey : Opc.needsKey op = true → s.block.keyLen ≠ 0) :
    runTurns (seqCmd op) s = some { s with block := accept op s.block } := by
  rw [runTurns_seqCmd hidle, issue_opcWord, if_neg (by simpa using hkey)]

theorem runTurns_seqCmd_keyEmpty {op : Opc} (hop : Opc.needsKey op = true) (hkey : s.block.keyLen = 0) :
    runTurns (seqCmd op) s = some { s with block := raiseError .keyEmpty s.block } := by
  rw [runTurns_seqCmd hidle, issue_keyEmpty hop hkey]

theorem runTurns_seqSetCtr (v : BitVec 64) :
    runTurns (seqSetCtr v) s = some { s with block := { s.block with ctr := v } } := by
  have hv : (v.extractLsb' 32 32 ++ v.extractLsb' 0 32 : BitVec (32 + 32)) = v := by
    apply BitVec.eq_of_toNat_eq
    rw [toNat_append_field, toNat_field, toNat_lowField]
    omega
  have hctr : setCtrLo (v.extractLsb' 0 32) (setCtrHi (v.extractLsb' 32 32) s.block) = { s.block with ctr := v } := by
    rw [setCtrLo, ctrHi_setCtrHi, hv]
    rfl
  have hlo := runTurn_registerWrite (off := 0x14) (f := setCtrLo (v.extractLsb' 0 32)) rfl rfl rfl
    (s := { s with block := setCtrHi (v.extractLsb' 32 32) s.block }) hidle
  rw [hctr] at hlo
  exact (runTurns_cons (runTurn_registerWrite (off := 0x10) rfl rfl rfl hidle) _).trans (runTurns_cons hlo [])

theorem runTurns_seqSetCfg (alg : Alg) (digits : BitVec 4) (ie : Bool) :
    runTurns (seqSetCfg alg digits ie) s = some { s with
      block := writeCfg (cfgWord { s.block with alg := alg, digits := digits, intEn := ie }) s.block } :=
  runTurns_cons (runTurn_registerWrite (off := 0x04) rfl rfl rfl hidle) []

theorem runTurns_seqKey (bytes : List Byte) :
    runTurns (seqKey bytes) s = some { s with block := pushAll bytes s.block } := by
  induction bytes generalizing s with
  | nil => rfl
  | cons x bytes ih =>
    exact (runTurns_cons (runTurn_registerWrite (off := 0x18) rfl rfl rfl hidle) _).trans
      (ih ((pushKey_busy _ s.block).trans hidle))

end

/-! ### Storing the configuration and the secret -/

theorem Alg.code_injective {a a' : Alg} (h : (Alg.code a).toNat = (Alg.code a').toNat) : a = a' := by
  revert h
  cases a <;> cases a' <;> decide

/-- The word that `CFG` would read as is stored if its digit count is legal. -/
theorem writeCfg_cfgWord (alg : Alg) (digits : BitVec 4) (ie : Bool) (b : Block) :
    writeCfg (cfgWord { b with alg := alg, digits := digits, intEn := ie }) b =
      if digits.toNat < 6 then raiseError .cfg b else { b with alg := alg, digits := digits, intEn := ie } := by
  have hword := toNat_cfgWord { b with alg := alg, digits := digits, intEn := ie }
  generalize cfgWord { b with alg := alg, digits := digits, intEn := ie } = data at hword ⊢
  dsimp only at hword
  have halg := Alg.toNat_code_le alg
  have hdigits : data.toNat / 16 % 16 = digits.toNat := by omega
  split
  · exact writeCfg_rejected (by omega) b
  · cases hcfg : cfgOfWord data with
    | none =>
      have := (cfgOfWord_none data).mp hcfg
      omega
    | some c =>
      obtain ⟨a, d, e⟩ := c
      obtain ⟨ha, hd, he⟩ := cfgOfWord_some hcfg
      obtain rfl : a = alg := Alg.code_injective (by omega)
      have hd' : d = digits := by
        apply BitVec.eq_of_toNat_eq
        rw [hd, BitVec.toNat_ofNat, ← hdigits]
      have he' : e = ie := by
        have hbit : data.toNat / 2 ^ 8 % 2 = ie.toNat := by
          have := ie.toNat_le
          omega
        rw [he, BitVec.getLsbD, Nat.testBit_eq_decide_div_mod_eq, hbit]
        cases ie <;> rfl
      rw [writeCfg, hcfg, hd', he']

theorem secret_pushKey {b : Block} (hroom : b.keyLen < Config.keyMax) (hrises : Memory.risesFrom 0 b.key = true)
    (x : Byte) : secret (pushKey (x.zeroExtend 32) b) = secret b ++ [x] := by
  have hbyte : (x.zeroExtend 32).extractLsb' 0 8 = x := by
    apply BitVec.eq_of_toNat_eq
    rw [toNat_lowField, BitVec.toNat_setWidth_of_le (by decide), Nat.mod_eq_of_lt x.isLt]
  have hread (i : Nat) := Memory.read_write hrises b.keyLen x i
  rw [pushKey_append hroom, hbyte, secret_eq_map_read, secret_eq_map_read, List.range_succ, List.map_append,
    List.map_singleton, hread, if_pos rfl]
  congr 1
  refine List.map_congr_left fun i hi => ?_
  rw [hread, if_neg (List.mem_range.mp hi).ne]

theorem pushAll_busy (bytes : List Byte) (b : Block) : (pushAll bytes b).busy = b.busy := by
  induction bytes generalizing b with
  | nil => rfl
  | cons x bytes ih => rw [pushAll_cons, ih, pushKey_busy]

/-- The pushes leave `ERR_CFG`, and raise `ERR_KEY_OVF` exactly if the secret does not fit. -/
theorem pushAll_errors (bytes : List Byte) {b : Block} (hlen : b.keyLen ≤ Config.keyMax) :
    errorBit (pushAll bytes b) .cfg = errorBit b .cfg ∧
      errorBit (pushAll bytes b) .keyOvf =
        (errorBit b .keyOvf || decide (Config.keyMax < b.keyLen + bytes.length)) := by
  induction bytes generalizing b with
  | nil => exact ⟨rfl, by rw [List.length_nil, decide_eq_false (by omega), Bool.or_false]; rfl⟩
  | cons x bytes ih =>
    rw [pushAll_cons, List.length_cons]
    rcases Nat.eq_or_lt_of_le hlen with hfull | hroom
    · rw [pushKey_full hfull]
      obtain ⟨hcfg, hovf⟩ := ih (b := raiseError .keyOvf b) hlen
      have hover : decide (Config.keyMax < b.keyLen + (bytes.length + 1)) = true := decide_eq_true (by omega)
      rw [hcfg, hovf, errorBit_raiseError, errorBit_raiseError, hover]
      simp
    · rw [pushKey_append hroom]
      obtain ⟨hcfg, hovf⟩ := ih (b := { b with
        key := b.key.write b.keyLen ((x.zeroExtend 32).extractLsb' 0 8), keyLen := b.keyLen + 1 }) hroom
      rw [hcfg, hovf, errorBit_key, errorBit_key, Nat.add_assoc, Nat.add_comm 1]
      exact ⟨rfl, rfl⟩

/-- A secret that fits is appended to the key. -/
theorem pushAll_secret {bytes : List Byte} {b : Block} (hfit : b.keyLen + bytes.length ≤ Config.keyMax)
    (hrises : Memory.risesFrom 0 b.key = true) :
    (pushAll bytes b).keyLen = b.keyLen + bytes.length ∧ secret (pushAll bytes b) = secret b ++ bytes := by
  induction bytes generalizing b with
  | nil => exact ⟨rfl, (List.append_nil _).symm⟩
  | cons x bytes ih =>
    rw [List.length_cons] at hfit ⊢
    have hroom : b.keyLen < Config.keyMax := by omega
    have hpush := pushKey_append hroom (x.zeroExtend 32)
    have hlen : (pushKey (x.zeroExtend 32) b).keyLen = b.keyLen + 1 := by rw [hpush]
    have hrises' : Memory.risesFrom 0 (pushKey (x.zeroExtend 32) b).key = true := by
      rw [hpush]
      exact Memory.risesFrom_write hrises (Nat.zero_le _) _
    obtain ⟨hlen', hsecret⟩ := ih (by omega) hrises'
    rw [pushAll_cons, hlen', hlen, hsecret, secret_pushKey hroom hrises, List.append_assoc]
    exact ⟨by omega, rfl⟩

/-! ### Construction -/

/-- The block after `CLRST` and KEYCLR. -/
def clearedBlock (b : Block) : Block := finish (effectKeyclr (accept .keyclr (ackStatus 0x00001F02#32 b)))

theorem errorBit_clearedBlock (b : Block) (e : ErrorFlag) : errorBit (clearedBlock b) e = false := by
  rw [clearedBlock, errorBit_finish, ← errorBit_seqClrst b e, ← errorBit_accept .keyclr]
  exact errorBit_effectOf .keyclr _ e

/-- The block that construction leaves. -/
def constructedBlock (e : Engine) (ie : Bool) (b : Block) : Block :=
  writeCfg (cfgWord { pushAll e.secret (clearedBlock b) with alg := e.alg, digits := e.digits, intEn := ie })
    (pushAll e.secret (clearedBlock b))

/-- Construction reports what the status word of the block it leaves shows. -/
theorem constructOnBlock_eq (e : Engine) (ie : Bool) (polls : Nat) {s : State} (hidle : s.block.busy = false) :
    Engine.constructOnBlock e ie polls s =
      some (if constructErrors (statusWord (constructedBlock e ie s.block)) = [] then .ok ()
        else .error (constructErrors (statusWord (constructedBlock e ie s.block))),
        { s with block := constructedBlock e ie s.block, rdata := statusWord (constructedBlock e ie s.block) }) := by
  have hclear : runTurns (seqClrst ++ seqCmd .keyclr) s =
      some { s with block := accept .keyclr (ackStatus 0x00001F02#32 s.block) } :=
    (runTurns_append_of (runTurns_seqClrst s) _).trans
      (runTurns_seqCmd_accept (s := { s with block := ackStatus 0x00001F02#32 s.block }) hidle nofun)
  obtain ⟨w, hwait⟩ : ∃ w, runWait polls { s with block := accept .keyclr (ackStatus 0x00001F02#32 s.block) } =
      some { s with block := clearedBlock s.block, rdata := w } := runWait_busy polls rfl
  have hstore : runTurns (seqKey e.secret ++ seqSetCfg e.alg e.digits ie)
      { s with block := clearedBlock s.block, rdata := w } =
        some { s with block := constructedBlock e ie s.block, rdata := w } :=
    (runTurns_append_of
      (runTurns_seqKey (s := { s with block := clearedBlock s.block, rdata := w }) rfl e.secret) _).trans
      (runTurns_seqSetCfg (s := { s with block := pushAll e.secret (clearedBlock s.block), rdata := w })
        (pushAll_busy e.secret _) e.alg e.digits ie)
  simp only [Engine.constructOnBlock, hclear, hwait, Option.bind_some, hstore, runRead_status, Option.map_some]

theorem constructErrors_statusWord (b : Block) :
    constructErrors (statusWord b) =
      (if errorBit b .cfg then [.invalidConfiguration] else [])
        ++ (if errorBit b .keyOvf then [.secretTooLong] else []) := by
  simp only [constructErrors, statusErrors, List.filter_cons, List.filter_nil, getLsbD_statusWord_code]
  cases errorBit b .cfg <;> cases errorBit b .keyOvf <;> rfl

/-- The flags that construction tests show exactly a digit count below 6 and a secret that does not fit. -/
theorem errorBit_constructedBlock (e : Engine) (ie : Bool) (b : Block) :
    errorBit (constructedBlock e ie b) .cfg = decide (e.digits.toNat < 6) ∧
      errorBit (constructedBlock e ie b) .keyOvf = decide (Config.keyMax < e.secret.length) := by
  obtain ⟨hcfg, hovf⟩ := pushAll_errors e.secret (b := clearedBlock b) (Nat.zero_le _)
  rw [errorBit_clearedBlock] at hcfg hovf
  have hlen : (clearedBlock b).keyLen = 0 := rfl
  rw [hlen, Nat.zero_add, Bool.false_or] at hovf
  rw [constructedBlock, writeCfg_cfgWord]
  by_cases hdigits : e.digits.toNat < 6
  · simp [hdigits, hcfg, hovf]
  · simp [hdigits, errorBit_cfg, hcfg, hovf]

/-- Where the digit count is legal and the secret fits, the block holds the engine. -/
theorem holds_constructedBlock {e : Engine} (ie : Bool) (b : Block) (hdigits : ¬e.digits.toNat < 6)
    (hfit : e.secret.length ≤ Config.keyMax) : Block.Holds e (constructedBlock e ie b) := by
  have hlen : (clearedBlock b).keyLen = 0 := rfl
  have hempty : secret (clearedBlock b) = [] := rfl
  obtain ⟨hkeyLen, hsecret⟩ := pushAll_secret (b := clearedBlock b) (by rwa [hlen, Nat.zero_add]) rfl
  rw [constructedBlock, writeCfg_cfgWord, if_neg hdigits]
  refine ⟨pushAll_busy e.secret _, rfl, rfl, by rw [hkeyLen, hlen, Nat.zero_add], ?_⟩
  rw [hempty, List.nil_append, secret_eq_map_read] at hsecret
  exact hsecret

/-! ### The views -/

/-- A read of the driver returns its word and changes nothing else. -/
theorem runRead_word {off : Nat} (he : headerExists (BitVec.ofNat 9 off) = true)
    (hwe : Header.we (BitVec.ofNat 9 off) = false) (s : State) :
    runRead off s = some (hostWord (BitVec.ofNat 9 off) s.block 0,
      { s with rdata := hostWord (BitVec.ofNat 9 off) s.block 0 }) := by
  have hword : hostWord (BitVec.ofNat 9 off) s.block s.rdata = hostWord (BitVec.ofNat 9 off) s.block 0 := by
    simp only [hostWord, hwe, Bool.false_eq_true, if_false]
  rw [runRead, turnRd, runTurn_host he, hostEffect_read hwe, hword, Option.map_some]

/-- The words of a view. -/
def View.words (v : View) (b : Block) : List Word := v.offsets.map fun off => hostWord (BitVec.ofNat 9 off) b 0

theorem runReads_words {offs : List Nat}
    (h : ∀ off ∈ offs, headerExists (BitVec.ofNat 9 off) = true ∧ Header.we (BitVec.ofNat 9 off) = false) (s : State) :
    ∃ w, runReads offs s =
      some (offs.map fun off => hostWord (BitVec.ofNat 9 off) s.block 0, { s with rdata := w }) := by
  induction offs generalizing s with
  | nil => exact ⟨s.rdata, rfl⟩
  | cons off offs ih =>
    rw [List.forall_mem_cons] at h
    obtain ⟨⟨he, hwe⟩, hoffs⟩ := h
    obtain ⟨w, hreads⟩ := ih hoffs { s with rdata := hostWord (BitVec.ofNat 9 off) s.block 0 }
    exact ⟨w, by simp only [runReads, runRead_word he hwe, Option.bind_some, hreads, Option.map_some, List.map_cons]⟩

theorem runReads_view (v : View) (s : State) :
    ∃ w, runReads v.offsets s = some (v.words s.block, { s with rdata := w }) :=
  runReads_words (by cases v <;> decide) s

/-- Digit `i` of the ASCII view is its character less 0x30. -/
theorem digitAt_ascii {b : Block} {i : Nat} (hi : i < b.pwdLen.toNat) :
    View.digitAt .ascii (View.words .ascii b) i = (digit b i).toNat := by
  have hwords : ∀ j < 4, (View.words .ascii b).getD j 0 = ascWord b (BitVec.ofNat 2 j) := by
    intro j hj
    interval_cases j <;> rfl
  have hlt : i / 4 < 4 := by omega
  have hindex : 4 * (BitVec.ofNat 2 (i / 4)).toNat + i % 4 = i := by rw [BitVec.toNat_ofNat]; omega
  have hbyte : 2 ^ 8 = 256 := rfl
  rw [View.digitAt, hwords _ hlt, toNat_field, Nat.pow_mul, hbyte, byte_ascWord b _ (Nat.mod_lt i (by decide)), hindex,
    toNat_chr, if_pos hi, Nat.add_sub_cancel_left]

/-- Digit `i` of the BCD view is its nibble. -/
theorem digitAt_bcd {b : Block} {i : Nat} (hi : i < b.pwdLen.toNat) :
    View.digitAt .bcd (View.words .bcd b) i = (digit b i).toNat := by
  have hwords : ∀ j < 2, (View.words .bcd b).getD j 0 = bcdWord b (8 * j) := by
    intro j hj
    interval_cases j <;> rfl
  have hlt : i / 8 < 2 := by omega
  have hnibble : 2 ^ 4 = 16 := rfl
  rw [View.digitAt, hwords _ hlt, toNat_field, Nat.pow_mul, hnibble, nibble_bcdWord b _ (Nat.mod_lt i (by decide)),
    Nat.div_add_mod, toNat_nib, if_pos hi]

/-- The password that the host reads is the valid digits of the digit file, from either view. -/
theorem password_words (v : View) (b : Block) : v.password (rstatWord b) (v.words b) = passwordDigits b := by
  have hlen : lengthOfRstat (rstatWord b) = b.pwdLen.toNat := by
    rw [lengthOfRstat, toNat_field, toNat_rstatWord]
    omega
  rw [View.password, hlen, passwordDigits]
  refine List.map_congr_left fun i hi => ?_
  cases v with
  | ascii => exact digitAt_ascii (List.mem_range.mp hi)
  | bcd => exact digitAt_bcd (List.mem_range.mp hi)

/-! ### One password -/

theorem Block.Holds.idle {e : Engine} {b : Block} (h : Block.Holds e b) : b.busy = false := h.1

theorem Block.Holds.keyLen_eq {e : Engine} {b : Block} (h : Block.Holds e b) : b.keyLen = e.secret.length := by
  obtain ⟨-, -, -, hkeyLen, -⟩ := h
  exact hkeyLen

/-- The block that the password sequence issues OTP on. -/
def preparedBlock (ctr : BitVec 64) (b : Block) : Block := ackStatus 0x00001F02#32 { b with ctr := ctr }

/-- No error flag is set, so the host reports no error. -/
theorem passwordErrors_nil {b : Block} (h : ∀ e, errorBit b e = false) : passwordErrors (statusWord b) = [] := by
  simp only [passwordErrors, statusErrors, List.filter_cons, List.filter_nil, getLsbD_statusWord_code, h]
  rfl

/-- The digest that TRUNC reads after HMAC is the digest of the key and the counter. -/
theorem digestBytes_effectHmac (b : Block) : digestBytes (effectHmac b) = blockDigest b := by
  have hlen : (blockDigest b).length = b.alg.digestLen := length_hmac ..
  refine List.ext_getElem (by rw [digestBytes, Memory.length_readBytes, effectHmac_alg, hlen]) fun i hi hi' => ?_
  have hread := read_effectHmac_dg b i
  rw [if_pos (by omega), ← blockDigest_eq_digestOf] at hread
  simp only [digestBytes, Memory.readBytes, List.getElem_map, List.getElem_range, Nat.zero_add, hread, byteAt]
  exact List.getD_eq_getElem _ _ hi'

/-- OTP leaves the engine's password on a block that has its configuration and its secret (R167). -/
theorem passwordDigits_effectOtp {e : Engine} {b : Block} (halg : b.alg = e.alg) (hdigits : b.digits = e.digits)
    (hsecret : secret b = e.secret) : passwordDigits (effectOtp b) = Engine.passwordOf e b.ctr := by
  have hdigest : blockDigest b = hmac e.alg e.secret (counterBytes b.ctr) := by rw [blockDigest, hsecret, halg]
  rw [effectOtp, passwordDigits_effectRender, effectTrunc_digits, effectHmac_digits, effectTrunc_value,
    digestBytes_effectHmac, hdigest, hdigits, Engine.passwordOf]

theorem errorBit_preparedBlock (ctr : BitVec 64) (b : Block) (e : ErrorFlag) :
    errorBit (preparedBlock ctr b) e = false := errorBit_seqClrst _ e

theorem runTurns_prepare {ctr : BitVec 64} {s : State} (hidle : s.block.busy = false) (ts : List Turn) :
    runTurns (seqSetCtr ctr ++ seqClrst ++ ts) s = runTurns ts { s with block := preparedBlock ctr s.block } := by
  rw [List.append_assoc, runTurns_append_of (runTurns_seqSetCtr hidle ctr),
    runTurns_append_of (runTurns_seqClrst _), preparedBlock]

/-- The block that a password's sequence leaves where there is a key. -/
def passwordBlock (ctr : BitVec 64) (b : Block) : Block := finish (effectOtp (accept .otp (preparedBlock ctr b)))

theorem passwordErrors_passwordBlock (ctr : BitVec 64) (b : Block) :
    passwordErrors (statusWord (passwordBlock ctr b)) = [] := by
  refine passwordErrors_nil fun e => ?_
  have hkept := errorBit_effectOf .otp (accept .otp (preparedBlock ctr b)) e
  rw [errorBit_accept, errorBit_preparedBlock] at hkept
  rw [passwordBlock, errorBit_finish]
  exact hkept

/-- Neither `CLRST` nor `SETCTR` writes anything of the engine. -/
theorem holds_preparedBlock {e : Engine} {b : Block} (h : Block.Holds e b) (ctr : BitVec 64) :
    Block.Holds e (preparedBlock ctr b) := h

theorem holds_passwordBlock {e : Engine} {b : Block} (h : Block.Holds e b) (ctr : BitVec 64) :
    Block.Holds e (passwordBlock ctr b) := by
  obtain ⟨-, halg, hdigits, hkeyLen, hsecret⟩ := h
  obtain ⟨halg', hdigits', -⟩ := effectOf_cfg .otp (accept .otp (preparedBlock ctr b))
  obtain ⟨hkey', hkeyLen'⟩ := effectOf_key (op := .otp) (by decide) (accept .otp (preparedBlock ctr b))
  have hsame : secret (passwordBlock ctr b) = secret b :=
    congrArg₂ (fun key n => Memory.readBytes key 0 n) hkey' hkeyLen'
  refine ⟨rfl, halg'.trans halg, hdigits'.trans hdigits, hkeyLen'.trans hkeyLen, ?_⟩
  rwa [← secret_eq_map_read, hsame, secret_eq_map_read]

theorem passwordDigits_passwordBlock {e : Engine} {b : Block} (h : Block.Holds e b) (ctr : BitVec 64) :
    passwordDigits (passwordBlock ctr b) = Engine.passwordOf e ctr := by
  obtain ⟨-, halg, hdigits, -, hsecret⟩ := h
  rw [passwordBlock, passwordDigits_finish]
  exact passwordDigits_effectOtp (b := accept .otp (preparedBlock ctr b)) halg hdigits
    ((secret_eq_map_read b).trans hsecret)

theorem runRead_rstat (s : State) : runRead 0x24 s = some (rstatWord s.block, { s with rdata := rstatWord s.block }) :=
  runRead_word (off := 0x24) rfl rfl s

/-- With a key the sequence ends with the engine's password, read from either view. -/
theorem passwordOnBlock_ok {e : Engine} (hkey : e.secret ≠ []) {s : State} (h : Block.Holds e s.block)
    (ctr : BitVec 64) (view : View) (polls : Nat) :
    ∃ w, passwordOnBlock ctr view polls s =
      some (.ok (Engine.passwordOf e ctr), { s with block := passwordBlock ctr s.block, rdata := w }) := by
  have hidle := h.idle
  have hlen : s.block.keyLen ≠ 0 := by rwa [h.keyLen_eq, Ne, List.length_eq_zero_iff]
  have hissue : runTurns (seqSetCtr ctr ++ seqClrst ++ seqCmd .otp) s =
      some { s with block := accept .otp (preparedBlock ctr s.block) } :=
    (runTurns_prepare hidle _).trans
      (runTurns_seqCmd_accept (s := { s with block := preparedBlock ctr s.block }) hidle fun _ => hlen)
  obtain ⟨w, hwait⟩ : ∃ w, runWait polls { s with block := accept .otp (preparedBlock ctr s.block) } =
      some { s with block := passwordBlock ctr s.block, rdata := w } := runWait_busy polls rfl
  obtain ⟨w', hview⟩ := runReads_view view
    { s with block := passwordBlock ctr s.block, rdata := rstatWord (passwordBlock ctr s.block) }
  have hpassword : view.password (rstatWord (passwordBlock ctr s.block)) (view.words (passwordBlock ctr s.block)) =
      Engine.passwordOf e ctr := by
    rw [password_words, passwordDigits_passwordBlock h]
  refine ⟨w', ?_⟩
  simp only [passwordOnBlock, hissue, hwait, Option.bind_some, runRead_status, passwordErrors_passwordBlock, if_true,
    runRead_rstat, hview, Option.map_some, hpassword]

/-- Without a key the sequence ends with the error of an empty secret. -/
theorem passwordOnBlock_secretEmpty {s : State} (hidle : s.block.busy = false) (hlen : s.block.keyLen = 0)
    (ctr : BitVec 64) (view : View) (polls : Nat) :
    ∃ w, passwordOnBlock ctr view polls s = some (.error [.secretEmpty],
      { s with block := raiseError .keyEmpty (preparedBlock ctr s.block), rdata := w }) := by
  have hissue : runTurns (seqSetCtr ctr ++ seqClrst ++ seqCmd .otp) s =
      some { s with block := raiseError .keyEmpty (preparedBlock ctr s.block) } :=
    (runTurns_prepare hidle _).trans
      (runTurns_seqCmd_keyEmpty (s := { s with block := preparedBlock ctr s.block }) hidle rfl hlen)
  have hwait := runWait_idle polls (s := { s with block := raiseError .keyEmpty (preparedBlock ctr s.block) }) hidle
  have herrors : passwordErrors (statusWord (raiseError .keyEmpty (preparedBlock ctr s.block))) = [.secretEmpty] := by
    simp only [passwordErrors, statusErrors, List.filter_cons, List.filter_nil, getLsbD_statusWord_code,
      errorBit_raiseError, errorBit_preparedBlock]
    rfl
  refine ⟨statusWord (raiseError .keyEmpty (preparedBlock ctr s.block)), ?_⟩
  simp only [passwordOnBlock, hissue, hwait, Option.bind_some, runRead_status, herrors, reduceCtorEq, if_false]

/-- Settles O59. Each sequence leaves one block; what the host reports is read off its words. -/
theorem engineOnTheBlockGivesItsPasswords : Obligations.EngineOnTheBlockGivesItsPasswords := by
  refine ⟨fun e ie polls s hidle => ?construct,
    fun e ctr view polls s h => ⟨fun hkey => ?password, fun hempty => ?empty⟩⟩
  case construct =>
    obtain ⟨hcfg, hovf⟩ := errorBit_constructedBlock e ie s.block
    have herrors := constructErrors_statusWord (constructedBlock e ie s.block)
    have hconstruct := constructOnBlock_eq e ie polls hidle
    simp only [hcfg, hovf, decide_eq_true_eq] at herrors
    rw [herrors] at hconstruct
    refine ⟨_, hconstruct, fun hnone => holds_constructedBlock ie s.block (fun hlt => ?_) (Nat.not_lt.mp fun hlt => ?_)⟩
    · simp [hlt] at hnone
    · simp [hlt] at hnone
  case password =>
    obtain ⟨w, hrun⟩ := passwordOnBlock_ok hkey h ctr view polls
    exact ⟨_, hrun, holds_passwordBlock h ctr⟩
  case empty =>
    have hlen : s.block.keyLen = 0 := by rw [h.keyLen_eq, hempty, List.length_nil]
    obtain ⟨w, hrun⟩ := passwordOnBlock_secretEmpty h.idle hlen ctr view polls
    exact ⟨_, hrun, h⟩

end Sys2Proof.Machine
end
